-- ==== Sys2Proof/Word.lean ====
section
/-! DEFINITION. The word and byte types of the core (00_scope.md R10: XLEN = 32). -/

namespace Sys2Proof

/-- A 32-bit value: a register, an address or an instruction word (R14, R100). -/
abbrev Word := BitVec 32

/-- One byte of the backing store (R33). -/
abbrev Byte := BitVec 8

/-- A register index (R101). -/
abbrev RegIdx := BitVec 5

end Sys2Proof
end

