-- ==== Sys2Proof/Machine/Flags.lean ====
section
/-! DEFINITION. Conditions. The core has no flags (10_state.md R27): branches and the set-if-less-than
instructions compare two 32-bit values directly, by the comparisons of 00_scope.md R13. -/

namespace Sys2Proof.Machine

/-- `a == b` on all 32 bits (R165). -/
def condEq (a b : Word) : Bool := a == b

/-- `a <s b`, two's complement (R13, R167). -/
def condLtS (a b : Word) : Bool := a.slt b

/-- `a <u b` (R13, R169). -/
def condLtU (a b : Word) : Bool := a.ult b

/-- 1 where a condition holds, else 0 (R201, R223). -/
def wordOfCond (c : Bool) : Word := if c then 1#32 else 0#32

end Sys2Proof.Machine
end

