-- ==== Sys2Proof/Syntax.lean ====
section
/-! DEFINITION. The instructions: one constructor per row of spec/opcode_table.json, in the table's order.
Operands are the fields of 30_encoding.md R101 and the immediates of R104 to R109 at their own width, before
extension to 32 bits. -/

namespace Sys2Proof

/-- The 44 rows of the opcode table. `immB` and `immJ` operands carry their implicit bit 0 (R106, R108), which
a well-formed instruction has at zero. -/
inductive Instr where
  /-- LUI (R150); `imm` is the field inst[31:12]. -/
  | lui (rd : RegIdx) (imm : BitVec 20)
  /-- AUIPC (R151); `imm` is the field inst[31:12]. -/
  | auipc (rd : RegIdx) (imm : BitVec 20)
  /-- JAL (R160). -/
  | jal (rd : RegIdx) (imm : BitVec 21)
  /-- JALR (R162). -/
  | jalr (rd rs1 : RegIdx) (imm : BitVec 12)
  /-- BEQ (R165). -/
  | beq (rs1 rs2 : RegIdx) (imm : BitVec 13)
  /-- BNE (R166). -/
  | bne (rs1 rs2 : RegIdx) (imm : BitVec 13)
  /-- BLT (R167). -/
  | blt (rs1 rs2 : RegIdx) (imm : BitVec 13)
  /-- BGE (R168). -/
  | bge (rs1 rs2 : RegIdx) (imm : BitVec 13)
  /-- BLTU (R169). -/
  | bltu (rs1 rs2 : RegIdx) (imm : BitVec 13)
  /-- BGEU (R170). -/
  | bgeu (rs1 rs2 : RegIdx) (imm : BitVec 13)
  /-- LB (R181). -/
  | lb (rd rs1 : RegIdx) (imm : BitVec 12)
  /-- LH (R182). -/
  | lh (rd rs1 : RegIdx) (imm : BitVec 12)
  /-- LW (R183). -/
  | lw (rd rs1 : RegIdx) (imm : BitVec 12)
  /-- LBU (R184). -/
  | lbu (rd rs1 : RegIdx) (imm : BitVec 12)
  /-- LHU (R185). -/
  | lhu (rd rs1 : RegIdx) (imm : BitVec 12)
  /-- SB (R186); `rs1` is the base, `rs2` the value. -/
  | sb (rs1 rs2 : RegIdx) (imm : BitVec 12)
  /-- SH (R187); `rs1` is the base, `rs2` the value. -/
  | sh (rs1 rs2 : RegIdx) (imm : BitVec 12)
  /-- SW (R188); `rs1` is the base, `rs2` the value. -/
  | sw (rs1 rs2 : RegIdx) (imm : BitVec 12)
  /-- ADDI (R200). -/
  | addi (rd rs1 : RegIdx) (imm : BitVec 12)
  /-- SLTI (R201). -/
  | slti (rd rs1 : RegIdx) (imm : BitVec 12)
  /-- SLTIU (R202). -/
  | sltiu (rd rs1 : RegIdx) (imm : BitVec 12)
  /-- XORI (R203). -/
  | xori (rd rs1 : RegIdx) (imm : BitVec 12)
  /-- ORI (R204). -/
  | ori (rd rs1 : RegIdx) (imm : BitVec 12)
  /-- ANDI (R205). -/
  | andi (rd rs1 : RegIdx) (imm : BitVec 12)
  /-- SLLI (R206). -/
  | slli (rd rs1 : RegIdx) (shamt : BitVec 5)
  /-- SRLI (R207). -/
  | srli (rd rs1 : RegIdx) (shamt : BitVec 5)
  /-- SRAI (R208). -/
  | srai (rd rs1 : RegIdx) (shamt : BitVec 5)
  /-- ADD (R220). -/
  | add (rd rs1 rs2 : RegIdx)
  /-- SUB (R221). -/
  | sub (rd rs1 rs2 : RegIdx)
  /-- SLL (R222). -/
  | sll (rd rs1 rs2 : RegIdx)
  /-- SLT (R223). -/
  | slt (rd rs1 rs2 : RegIdx)
  /-- SLTU (R224). -/
  | sltu (rd rs1 rs2 : RegIdx)
  /-- XOR (R225). -/
  | xor (rd rs1 rs2 : RegIdx)
  /-- SRL (R226). -/
  | srl (rd rs1 rs2 : RegIdx)
  /-- SRA (R227). -/
  | sra (rd rs1 rs2 : RegIdx)
  /-- OR (R228). -/
  | or (rd rs1 rs2 : RegIdx)
  /-- AND (R229). -/
  | and (rd rs1 rs2 : RegIdx)
  /-- IRET, the all-ones word (R111, R262). -/
  | iret
  /-- HALT (JAL x0, 0), the word 0x0000006F (R112, R243). -/
  | halt
  /-- FENCE, not implemented by the core (R240, R241); the operands are the bits the row leaves free. -/
  | fence (rd rs1 : RegIdx) (imm : BitVec 12)
  /-- FENCE.I, not implemented by the core (R240, R241). -/
  | fencei (rd rs1 : RegIdx) (imm : BitVec 12)
  /-- ECALL, not implemented by the core (R240, R241). -/
  | ecall
  /-- EBREAK, not implemented by the core (R240, R241). -/
  | ebreak
  /-- UNIMPLEMENTED: every word that matches no other row (R115, R116, R240). -/
  | unimplemented (word : Word)
  deriving DecidableEq, Repr

end Sys2Proof
end

