-- ==== Sys2Proof/WellFormed.lean ====
section
/-! DEFINITION. The opcode table as mask and match rows, and which terms of `Instr` are instructions: those
some word of the table's encodings stands for. -/

namespace Sys2Proof

/-- A row of spec/opcode_table.json: the words `w` with `w &&& mask = value`. -/
structure Row where
  mnemonic : String
  value : Word
  mask : Word
  deriving DecidableEq, Repr

/-- A word belongs to a row's encoding. -/
def Row.holds (r : Row) (w : Word) : Bool := w &&& r.mask == r.value

/-- The row an instruction stands for (30_encoding.md R110, R113, R114; the funct3 and funct7 numbers are the
spec's, which it marks as general knowledge G1: UNVERIFIED, log 3). The catch-all row has an empty mask. -/
def Instr.row : Instr → Row
  | .lui _ _ => ⟨"LUI", 0x00000037, 0x0000007F⟩
  | .auipc _ _ => ⟨"AUIPC", 0x00000017, 0x0000007F⟩
  | .jal _ _ => ⟨"JAL", 0x0000006F, 0x0000007F⟩
  | .jalr _ _ _ => ⟨"JALR", 0x00000067, 0x0000707F⟩
  | .beq _ _ _ => ⟨"BEQ", 0x00000063, 0x0000707F⟩
  | .bne _ _ _ => ⟨"BNE", 0x00001063, 0x0000707F⟩
  | .blt _ _ _ => ⟨"BLT", 0x00004063, 0x0000707F⟩
  | .bge _ _ _ => ⟨"BGE", 0x00005063, 0x0000707F⟩
  | .bltu _ _ _ => ⟨"BLTU", 0x00006063, 0x0000707F⟩
  | .bgeu _ _ _ => ⟨"BGEU", 0x00007063, 0x0000707F⟩
  | .lb _ _ _ => ⟨"LB", 0x00000003, 0x0000707F⟩
  | .lh _ _ _ => ⟨"LH", 0x00001003, 0x0000707F⟩
  | .lw _ _ _ => ⟨"LW", 0x00002003, 0x0000707F⟩
  | .lbu _ _ _ => ⟨"LBU", 0x00004003, 0x0000707F⟩
  | .lhu _ _ _ => ⟨"LHU", 0x00005003, 0x0000707F⟩
  | .sb _ _ _ => ⟨"SB", 0x00000023, 0x0000707F⟩
  | .sh _ _ _ => ⟨"SH", 0x00001023, 0x0000707F⟩
  | .sw _ _ _ => ⟨"SW", 0x00002023, 0x0000707F⟩
  | .addi _ _ _ => ⟨"ADDI", 0x00000013, 0x0000707F⟩
  | .slti _ _ _ => ⟨"SLTI", 0x00002013, 0x0000707F⟩
  | .sltiu _ _ _ => ⟨"SLTIU", 0x00003013, 0x0000707F⟩
  | .xori _ _ _ => ⟨"XORI", 0x00004013, 0x0000707F⟩
  | .ori _ _ _ => ⟨"ORI", 0x00006013, 0x0000707F⟩
  | .andi _ _ _ => ⟨"ANDI", 0x00007013, 0x0000707F⟩
  | .slli _ _ _ => ⟨"SLLI", 0x00001013, 0xFE00707F⟩
  | .srli _ _ _ => ⟨"SRLI", 0x00005013, 0xFE00707F⟩
  | .srai _ _ _ => ⟨"SRAI", 0x40005013, 0xFE00707F⟩
  | .add _ _ _ => ⟨"ADD", 0x00000033, 0xFE00707F⟩
  | .sub _ _ _ => ⟨"SUB", 0x40000033, 0xFE00707F⟩
  | .sll _ _ _ => ⟨"SLL", 0x00001033, 0xFE00707F⟩
  | .slt _ _ _ => ⟨"SLT", 0x00002033, 0xFE00707F⟩
  | .sltu _ _ _ => ⟨"SLTU", 0x00003033, 0xFE00707F⟩
  | .xor _ _ _ => ⟨"XOR", 0x00004033, 0xFE00707F⟩
  | .srl _ _ _ => ⟨"SRL", 0x00005033, 0xFE00707F⟩
  | .sra _ _ _ => ⟨"SRA", 0x40005033, 0xFE00707F⟩
  | .or _ _ _ => ⟨"OR", 0x00006033, 0xFE00707F⟩
  | .and _ _ _ => ⟨"AND", 0x00007033, 0xFE00707F⟩
  | .iret => ⟨"IRET", 0xFFFFFFFF, 0xFFFFFFFF⟩
  | .halt => ⟨"HALT__JAL_x0__0", 0x0000006F, 0xFFFFFFFF⟩
  | .fence _ _ _ => ⟨"FENCE__unimplemented", 0x0000000F, 0x0000707F⟩
  | .fencei _ _ _ => ⟨"FENCE.I__unimplemented", 0x0000100F, 0x0000707F⟩
  | .ecall => ⟨"ECALL__unimplemented", 0x00000073, 0xFFFFFFFF⟩
  | .ebreak => ⟨"EBREAK__unimplemented", 0x00100073, 0xFFFFFFFF⟩
  | .unimplemented _ => ⟨"UNIMPLEMENTED", 0x00000000, 0x00000000⟩

/-- The rows of the upper-immediate, control-transfer, load and store instructions. -/
def transferRows : List Row :=
  [Instr.lui 0 0, .auipc 0 0, .jal 0 0, .jalr 0 0 0, .beq 0 0 0, .bne 0 0 0, .blt 0 0 0, .bge 0 0 0,
   .bltu 0 0 0, .bgeu 0 0 0, .lb 0 0 0, .lh 0 0 0, .lw 0 0 0, .lbu 0 0 0, .lhu 0 0 0, .sb 0 0 0,
   .sh 0 0 0, .sw 0 0 0].map Instr.row

/-- The rows of the ALU instructions. -/
def aluRows : List Row :=
  [Instr.addi 0 0 0, .slti 0 0 0, .sltiu 0 0 0, .xori 0 0 0, .ori 0 0 0, .andi 0 0 0, .slli 0 0 0,
   .srli 0 0 0, .srai 0 0 0, .add 0 0 0, .sub 0 0 0, .sll 0 0 0, .slt 0 0 0, .sltu 0 0 0, .xor 0 0 0,
   .srl 0 0 0, .sra 0 0 0, .or 0 0 0, .and 0 0 0].map Instr.row

/-- The rows of the sentinel words and of the standard words the core does not implement. -/
def specialRows : List Row :=
  [Instr.iret, .halt, .fence 0 0 0, .fencei 0 0 0, .ecall, .ebreak].map Instr.row

/-- Every row of the table but the catch-all. -/
def namedRows : List Row := transferRows ++ (aluRows ++ specialRows)

/-- Some row other than the catch-all holds the word. -/
def inNamedRow (w : Word) : Bool := namedRows.any (·.holds w)

/-- The terms that are instructions. The checks: a branch or jump offset is even (R106, R108); `JAL x0, 0` is
written `halt`, its own row of the table (R112, log 4); an unimplemented word lies in no other row (R115). -/
def Instr.wf : Instr → Bool
  | .lui _ _ => true
  | .auipc _ _ => true
  | .jal rd imm => !imm.getLsbD 0 && !(rd == 0#5 && imm == 0#21)
  | .jalr _ _ _ => true
  | .beq _ _ imm => !imm.getLsbD 0
  | .bne _ _ imm => !imm.getLsbD 0
  | .blt _ _ imm => !imm.getLsbD 0
  | .bge _ _ imm => !imm.getLsbD 0
  | .bltu _ _ imm => !imm.getLsbD 0
  | .bgeu _ _ imm => !imm.getLsbD 0
  | .lb _ _ _ => true
  | .lh _ _ _ => true
  | .lw _ _ _ => true
  | .lbu _ _ _ => true
  | .lhu _ _ _ => true
  | .sb _ _ _ => true
  | .sh _ _ _ => true
  | .sw _ _ _ => true
  | .addi _ _ _ => true
  | .slti _ _ _ => true
  | .sltiu _ _ _ => true
  | .xori _ _ _ => true
  | .ori _ _ _ => true
  | .andi _ _ _ => true
  | .slli _ _ _ => true
  | .srli _ _ _ => true
  | .srai _ _ _ => true
  | .add _ _ _ => true
  | .sub _ _ _ => true
  | .sll _ _ _ => true
  | .slt _ _ _ => true
  | .sltu _ _ _ => true
  | .xor _ _ _ => true
  | .srl _ _ _ => true
  | .sra _ _ _ => true
  | .or _ _ _ => true
  | .and _ _ _ => true
  | .iret => true
  | .halt => true
  | .fence _ _ _ => true
  | .fencei _ _ _ => true
  | .ecall => true
  | .ebreak => true
  | .unimplemented word => !inNamedRow word

end Sys2Proof
end

