-- ==== Sys2Proof/Decode.lean ====
section
/-! DEFINITION. Decoding and encoding (30_encoding.md). `decode` is the total function of R115; `encode` is
written from the formats of R102. The funct3 and funct7 numbers of R113 and R114 and the pairing of class and
format of R103 are in the spec, which marks them as general knowledge (G1, G2): UNVERIFIED, log 3; unsafe. -/

namespace Sys2Proof

/-! ## Fields (R101) -/

/-- inst[6:0]. -/
def opcodeField (w : Word) : BitVec 7 := w.extractLsb' 0 7

/-- inst[11:7]. -/
def rdField (w : Word) : RegIdx := w.extractLsb' 7 5

/-- inst[14:12]. -/
def funct3Field (w : Word) : BitVec 3 := w.extractLsb' 12 3

/-- inst[19:15]. -/
def rs1Field (w : Word) : RegIdx := w.extractLsb' 15 5

/-- inst[24:20]; for the shift-immediate forms, the shift amount (R109). -/
def rs2Field (w : Word) : RegIdx := w.extractLsb' 20 5

/-- inst[31:25]. -/
def funct7Field (w : Word) : BitVec 7 := w.extractLsb' 25 7

/-! ## Immediates before extension (R104 to R108) -/

/-- I-type: inst[31:20] (R104). -/
def immIField (w : Word) : BitVec 12 := w.extractLsb' 20 12

/-- S-type: inst[31:25] ++ inst[11:7] (R105). -/
def immSField (w : Word) : BitVec 12 := w.extractLsb' 25 7 ++ w.extractLsb' 7 5

/-- B-type: inst[31] ++ inst[7] ++ inst[30:25] ++ inst[11:8] ++ 0 (R106). -/
def immBField (w : Word) : BitVec 13 :=
  w.extractLsb' 31 1 ++ w.extractLsb' 7 1 ++ w.extractLsb' 25 6 ++ w.extractLsb' 8 4 ++ 0#1

/-- U-type: inst[31:12] (R107). -/
def immUField (w : Word) : BitVec 20 := w.extractLsb' 12 20

/-- J-type: inst[31] ++ inst[19:12] ++ inst[20] ++ inst[30:21] ++ 0 (R108). -/
def immJField (w : Word) : BitVec 21 :=
  w.extractLsb' 31 1 ++ w.extractLsb' 12 8 ++ w.extractLsb' 20 1 ++ w.extractLsb' 21 10 ++ 0#1

/-! ## Major opcodes (R110) and the exact words -/

def opLui : BitVec 7 := 0b0110111#7
def opAuipc : BitVec 7 := 0b0010111#7
def opJal : BitVec 7 := 0b1101111#7
def opJalr : BitVec 7 := 0b1100111#7
def opBranch : BitVec 7 := 0b1100011#7
def opLoad : BitVec 7 := 0b0000011#7
def opStore : BitVec 7 := 0b0100011#7
def opAluImm : BitVec 7 := 0b0010011#7
def opAluReg : BitVec 7 := 0b0110011#7

/-- The opcode of FENCE and FENCE.I, outside the nine classes (R241). -/
def opMiscMem : BitVec 7 := 0b0001111#7

/-- The interrupt-return sentinel (R111). -/
def iretWord : Word := 0xFFFFFFFF#32

/-- `JAL x0, 0`, the halt convention (R112). -/
def haltWord : Word := 0x0000006F#32

/-- ECALL (R241). -/
def ecallWord : Word := 0x00000073#32

/-- EBREAK (R241). -/
def ebreakWord : Word := 0x00100073#32

/-! ## Decode, class by class (R113, R114, R115) -/

/-- JALR is implemented with funct3 000 only (R115, D12). -/
def decodeJalr (w : Word) : Instr :=
  if funct3Field w = 0b000#3 then .jalr (rdField w) (rs1Field w) (immIField w) else .unimplemented w

def decodeBranch (w : Word) : Instr :=
  if funct3Field w = 0b000#3 then .beq (rs1Field w) (rs2Field w) (immBField w)
  else if funct3Field w = 0b001#3 then .bne (rs1Field w) (rs2Field w) (immBField w)
  else if funct3Field w = 0b100#3 then .blt (rs1Field w) (rs2Field w) (immBField w)
  else if funct3Field w = 0b101#3 then .bge (rs1Field w) (rs2Field w) (immBField w)
  else if funct3Field w = 0b110#3 then .bltu (rs1Field w) (rs2Field w) (immBField w)
  else if funct3Field w = 0b111#3 then .bgeu (rs1Field w) (rs2Field w) (immBField w)
  else .unimplemented w

def decodeLoad (w : Word) : Instr :=
  if funct3Field w = 0b000#3 then .lb (rdField w) (rs1Field w) (immIField w)
  else if funct3Field w = 0b001#3 then .lh (rdField w) (rs1Field w) (immIField w)
  else if funct3Field w = 0b010#3 then .lw (rdField w) (rs1Field w) (immIField w)
  else if funct3Field w = 0b100#3 then .lbu (rdField w) (rs1Field w) (immIField w)
  else if funct3Field w = 0b101#3 then .lhu (rdField w) (rs1Field w) (immIField w)
  else .unimplemented w

def decodeStore (w : Word) : Instr :=
  if funct3Field w = 0b000#3 then .sb (rs1Field w) (rs2Field w) (immSField w)
  else if funct3Field w = 0b001#3 then .sh (rs1Field w) (rs2Field w) (immSField w)
  else if funct3Field w = 0b010#3 then .sw (rs1Field w) (rs2Field w) (immSField w)
  else .unimplemented w

/-- funct7 selects only among the shifts; elsewhere bits 31:25 are part of the immediate (R114). -/
def decodeAluImm (w : Word) : Instr :=
  if funct3Field w = 0b000#3 then .addi (rdField w) (rs1Field w) (immIField w)
  else if funct3Field w = 0b010#3 then .slti (rdField w) (rs1Field w) (immIField w)
  else if funct3Field w = 0b011#3 then .sltiu (rdField w) (rs1Field w) (immIField w)
  else if funct3Field w = 0b100#3 then .xori (rdField w) (rs1Field w) (immIField w)
  else if funct3Field w = 0b110#3 then .ori (rdField w) (rs1Field w) (immIField w)
  else if funct3Field w = 0b111#3 then .andi (rdField w) (rs1Field w) (immIField w)
  else if funct3Field w = 0b001#3 ∧ funct7Field w = 0b0000000#7 then
    .slli (rdField w) (rs1Field w) (rs2Field w)
  else if funct3Field w = 0b101#3 ∧ funct7Field w = 0b0000000#7 then
    .srli (rdField w) (rs1Field w) (rs2Field w)
  else if funct3Field w = 0b101#3 ∧ funct7Field w = 0b0100000#7 then
    .srai (rdField w) (rs1Field w) (rs2Field w)
  else .unimplemented w

/-- The funct7 match is exact (R114, D12). -/
def decodeAluReg (w : Word) : Instr :=
  if funct7Field w = 0b0000000#7 then
    if funct3Field w = 0b000#3 then .add (rdField w) (rs1Field w) (rs2Field w)
    else if funct3Field w = 0b001#3 then .sll (rdField w) (rs1Field w) (rs2Field w)
    else if funct3Field w = 0b010#3 then .slt (rdField w) (rs1Field w) (rs2Field w)
    else if funct3Field w = 0b011#3 then .sltu (rdField w) (rs1Field w) (rs2Field w)
    else if funct3Field w = 0b100#3 then .xor (rdField w) (rs1Field w) (rs2Field w)
    else if funct3Field w = 0b101#3 then .srl (rdField w) (rs1Field w) (rs2Field w)
    else if funct3Field w = 0b110#3 then .or (rdField w) (rs1Field w) (rs2Field w)
    else .and (rdField w) (rs1Field w) (rs2Field w)
  else if funct7Field w = 0b0100000#7 then
    if funct3Field w = 0b000#3 then .sub (rdField w) (rs1Field w) (rs2Field w)
    else if funct3Field w = 0b101#3 then .sra (rdField w) (rs1Field w) (rs2Field w)
    else .unimplemented w
  else .unimplemented w

/-- FENCE and FENCE.I have rows of their own in the table; both are unimplemented words (R241, log 5). -/
def decodeMiscMem (w : Word) : Instr :=
  if funct3Field w = 0b000#3 then .fence (rdField w) (rs1Field w) (immIField w)
  else if funct3Field w = 0b001#3 then .fencei (rdField w) (rs1Field w) (immIField w)
  else .unimplemented w

/-- The words one row of the table holds alone, first of all IRET (R111); the rest by class (R110). -/
def decode (w : Word) : Instr :=
  if w = iretWord then .iret
  else if w = haltWord then .halt
  else if w = ecallWord then .ecall
  else if w = ebreakWord then .ebreak
  else if opcodeField w = opLui then .lui (rdField w) (immUField w)
  else if opcodeField w = opAuipc then .auipc (rdField w) (immUField w)
  else if opcodeField w = opJal then .jal (rdField w) (immJField w)
  else if opcodeField w = opJalr then decodeJalr w
  else if opcodeField w = opBranch then decodeBranch w
  else if opcodeField w = opLoad then decodeLoad w
  else if opcodeField w = opStore then decodeStore w
  else if opcodeField w = opAluImm then decodeAluImm w
  else if opcodeField w = opAluReg then decodeAluReg w
  else if opcodeField w = opMiscMem then decodeMiscMem w
  else .unimplemented w

/-! ## Bytes (R65): the byte at the lowest address holds bits 7:0 -/

/-- Bits 31:24, 23:16, 15:8, 7:0 put together. -/
def wordOfBytes (b0 b1 b2 b3 : Byte) : Word := b3 ++ b2 ++ b1 ++ b0

/-- Byte `k` of a word, `k` from 0 (the lowest address) to 3. -/
def byteOfWord (w : Word) (k : Nat) : Byte := w.extractLsb' (8 * k) 8

/-- Why a list of bytes is no instruction. -/
inductive DecodeError where
  /-- Fewer than the four bytes every instruction has (R100). -/
  | tooShort
  deriving DecidableEq, Repr

/-- The instruction at the head of a list of bytes, and the bytes after it (R100). -/
def decodeBytes : List Byte → Except DecodeError (Instr × List Byte)
  | b0 :: b1 :: b2 :: b3 :: rest => .ok (decode (wordOfBytes b0 b1 b2 b3), rest)
  | _ => .error .tooShort

/-! ## Encode, by the formats of R102 -/

def encodeR (funct7 : BitVec 7) (rs2 rs1 : RegIdx) (funct3 : BitVec 3) (rd : RegIdx) (op : BitVec 7) : Word :=
  funct7 ++ rs2 ++ rs1 ++ funct3 ++ rd ++ op

def encodeI (imm : BitVec 12) (rs1 : RegIdx) (funct3 : BitVec 3) (rd : RegIdx) (op : BitVec 7) : Word :=
  imm ++ rs1 ++ funct3 ++ rd ++ op

def encodeS (imm : BitVec 12) (rs2 rs1 : RegIdx) (funct3 : BitVec 3) (op : BitVec 7) : Word :=
  imm.extractLsb' 5 7 ++ rs2 ++ rs1 ++ funct3 ++ imm.extractLsb' 0 5 ++ op

def encodeB (imm : BitVec 13) (rs2 rs1 : RegIdx) (funct3 : BitVec 3) (op : BitVec 7) : Word :=
  imm.extractLsb' 12 1 ++ imm.extractLsb' 5 6 ++ rs2 ++ rs1 ++ funct3 ++ imm.extractLsb' 1 4 ++
    imm.extractLsb' 11 1 ++ op

def encodeU (imm : BitVec 20) (rd : RegIdx) (op : BitVec 7) : Word := imm ++ rd ++ op

def encodeJ (imm : BitVec 21) (rd : RegIdx) (op : BitVec 7) : Word :=
  imm.extractLsb' 20 1 ++ imm.extractLsb' 1 10 ++ imm.extractLsb' 11 1 ++ imm.extractLsb' 12 8 ++ rd ++ op

/-- The word of an instruction. -/
def encode : Instr → Word
  | .lui rd imm => encodeU imm rd opLui
  | .auipc rd imm => encodeU imm rd opAuipc
  | .jal rd imm => encodeJ imm rd opJal
  | .jalr rd rs1 imm => encodeI imm rs1 0b000#3 rd opJalr
  | .beq rs1 rs2 imm => encodeB imm rs2 rs1 0b000#3 opBranch
  | .bne rs1 rs2 imm => encodeB imm rs2 rs1 0b001#3 opBranch
  | .blt rs1 rs2 imm => encodeB imm rs2 rs1 0b100#3 opBranch
  | .bge rs1 rs2 imm => encodeB imm rs2 rs1 0b101#3 opBranch
  | .bltu rs1 rs2 imm => encodeB imm rs2 rs1 0b110#3 opBranch
  | .bgeu rs1 rs2 imm => encodeB imm rs2 rs1 0b111#3 opBranch
  | .lb rd rs1 imm => encodeI imm rs1 0b000#3 rd opLoad
  | .lh rd rs1 imm => encodeI imm rs1 0b001#3 rd opLoad
  | .lw rd rs1 imm => encodeI imm rs1 0b010#3 rd opLoad
  | .lbu rd rs1 imm => encodeI imm rs1 0b100#3 rd opLoad
  | .lhu rd rs1 imm => encodeI imm rs1 0b101#3 rd opLoad
  | .sb rs1 rs2 imm => encodeS imm rs2 rs1 0b000#3 opStore
  | .sh rs1 rs2 imm => encodeS imm rs2 rs1 0b001#3 opStore
  | .sw rs1 rs2 imm => encodeS imm rs2 rs1 0b010#3 opStore
  | .addi rd rs1 imm => encodeI imm rs1 0b000#3 rd opAluImm
  | .slti rd rs1 imm => encodeI imm rs1 0b010#3 rd opAluImm
  | .sltiu rd rs1 imm => encodeI imm rs1 0b011#3 rd opAluImm
  | .xori rd rs1 imm => encodeI imm rs1 0b100#3 rd opAluImm
  | .ori rd rs1 imm => encodeI imm rs1 0b110#3 rd opAluImm
  | .andi rd rs1 imm => encodeI imm rs1 0b111#3 rd opAluImm
  | .slli rd rs1 shamt => encodeR 0b0000000#7 shamt rs1 0b001#3 rd opAluImm
  | .srli rd rs1 shamt => encodeR 0b0000000#7 shamt rs1 0b101#3 rd opAluImm
  | .srai rd rs1 shamt => encodeR 0b0100000#7 shamt rs1 0b101#3 rd opAluImm
  | .add rd rs1 rs2 => encodeR 0b0000000#7 rs2 rs1 0b000#3 rd opAluReg
  | .sub rd rs1 rs2 => encodeR 0b0100000#7 rs2 rs1 0b000#3 rd opAluReg
  | .sll rd rs1 rs2 => encodeR 0b0000000#7 rs2 rs1 0b001#3 rd opAluReg
  | .slt rd rs1 rs2 => encodeR 0b0000000#7 rs2 rs1 0b010#3 rd opAluReg
  | .sltu rd rs1 rs2 => encodeR 0b0000000#7 rs2 rs1 0b011#3 rd opAluReg
  | .xor rd rs1 rs2 => encodeR 0b0000000#7 rs2 rs1 0b100#3 rd opAluReg
  | .srl rd rs1 rs2 => encodeR 0b0000000#7 rs2 rs1 0b101#3 rd opAluReg
  | .sra rd rs1 rs2 => encodeR 0b0100000#7 rs2 rs1 0b101#3 rd opAluReg
  | .or rd rs1 rs2 => encodeR 0b0000000#7 rs2 rs1 0b110#3 rd opAluReg
  | .and rd rs1 rs2 => encodeR 0b0000000#7 rs2 rs1 0b111#3 rd opAluReg
  | .iret => iretWord
  | .halt => haltWord
  | .fence rd rs1 imm => encodeI imm rs1 0b000#3 rd opMiscMem
  | .fencei rd rs1 imm => encodeI imm rs1 0b001#3 rd opMiscMem
  | .ecall => ecallWord
  | .ebreak => ebreakWord
  | .unimplemented word => word

/-! ## The opcode table's numbering of an instruction's bits -/

/-- The word of a table row of `nbits` bits whose bits are `w`; the bits above are 0. -/
def tableWord (nbits w : Nat) : Word := BitVec.ofNat 32 (w % 2 ^ nbits)

/-- The bytes of a word in memory order (R65). -/
def bytesOfWord (w : Word) : List Byte :=
  [byteOfWord w 0, byteOfWord w 1, byteOfWord w 2, byteOfWord w 3]

/-- The instruction the decoder reads from those bytes. -/
def decodeTableWord (nbits w : Nat) : Option Instr :=
  match decodeBytes (bytesOfWord (tableWord nbits w)) with
  | .ok (i, _) => some i
  | .error _ => none

end Sys2Proof
end

