-- ==== Sys2Proof/Config.lean ====
section
/-! DEFINITION. The parameters of 00_scope.md R10: what a platform fixes for one machine. -/

namespace Sys2Proof

/-- FETCH_ALIGN (R10, R64): how a fetch at a pc that is no multiple of 4 is made. -/
inductive FetchAlign where
  | alignDown
  | unaligned
  deriving DecidableEq, Repr

/-- The parameters that vary between instances (R10, R11). INIT_MEM is not here: it is the memory a
machine is reset with. -/
structure Config where
  /-- MEM_SIZE: bytes of the backing store. -/
  memSize : Nat
  /-- HANDLER_ADDRESS: the fixed interrupt handler address (R31, R257). -/
  handlerAddress : Word
  /-- IRQ_THRESHOLD: counted instructions between interrupts (R255). -/
  irqThreshold : Nat
  /-- FETCH_ALIGN. -/
  fetchAlign : FetchAlign
  deriving DecidableEq, Repr

/-- The constraints R10 puts on the parameters. -/
abbrev Config.wf (c : Config) : Prop :=
  c.memSize % 4 = 0 ∧ 0xA0000 ≤ c.memSize ∧ 1 ≤ c.irqThreshold

/-- HANDLER_ADDRESS of the default machine: the spec gives it no value (R257, D15, N4), so it has none
here either. DESIGN CHOICE, log 2; safe. -/
opaque Config.openHandlerAddress : Word

/-- The defaults of R10 (D5, D9, D14), the handler address left open. DESIGN CHOICE, log 1. -/
def Config.default : Config where
  memSize := 0x100000
  handlerAddress := Config.openHandlerAddress
  irqThreshold := 1000
  fetchAlign := .alignDown

end Sys2Proof
end

