-- ==== Sys2Proof/Machine/State.lean ====
section
/-! DEFINITION. The state of the core (10_state.md R38), as plain data, and its value after reset
(70_reset_and_hazards.md R280). -/

namespace Sys2Proof.Machine

/-- The backing store (R33) as the bytes that differ from what an unlisted address reads as. -/
abbrev Memory := List Host.Cell

/-- What an unlisted byte reads as: the default INIT_MEM is all zero (R10, R33). Log 9. -/
def unlistedByte : Byte := 0#8

/-- The canonical form: addresses strictly rising, no entry equal to what an unlisted address reads as. -/
abbrev Memory.wf (m : Memory) : Prop :=
  m.Pairwise (fun c d => c.1 < d.1) ∧ ∀ c ∈ m, c.2 ≠ unlistedByte

/-- The one kind of diagnostic event (60_exceptions.md R251, R252). -/
inductive DiagKind where
  | unimplementedOperation
  deriving DecidableEq, Repr

/-- One event of `diag_out`: the kind, the instruction's address and its word (R252, D21; log 15). -/
structure DiagEvent where
  kind : DiagKind
  ipc : Word
  inst : Word
  deriving DecidableEq, Repr

/-- The core's state between two steps (R38). -/
structure State where
  /-- The parameters of R10 (`handler_address` of R31 among them); no step changes them. Log 1. -/
  config : Config
  /-- `x0` to `x31` (R20). -/
  regs : Vector Word 32
  /-- The program counter (R25). -/
  pc : Word
  /-- The pending-interrupt flag (R29). -/
  pending : Bool
  /-- `saved_return_address` (R30). -/
  savedReturnAddress : Word
  /-- Counted instructions since reset or since the last time the threshold was reached (R32). -/
  icount : Nat
  /-- The backing store (R33). -/
  mem : Memory
  /-- The bytes the serial peripheral has emitted, oldest first (R35). -/
  serialOut : List Byte
  /-- The diagnostic events reported, oldest first (R36). -/
  diagOut : List DiagEvent
  deriving DecidableEq, Repr

/-- Why the machine stops with a fault: never. The core raises no synchronous exception and no word, address
or state makes it stop, block or fault (R132, R250), so the type has no constructor. Log 14; safe. -/
inductive Fault where
  deriving DecidableEq, Repr

/-- Why an instruction has no next state. -/
inductive Refusal where
  /-- Raised by an arm of `exec` whose instruction has no meaning yet; no arm raises it. Safe: the model stops
  where the core goes on. -/
  | notModelled (mnemonic : String)
  deriving DecidableEq, Repr

/-- The state after construction with the given parameters and initial memory image (R280, R38). -/
def State.init (config : Config) (initMem : Memory) : State where
  config := config
  regs := Vector.replicate 32 0#32
  pc := 0#32
  pending := false
  savedReturnAddress := 0#32
  icount := 0
  mem := initMem
  serialOut := []
  diagOut := []

/-- The machine right after reset: the default parameters and the default, all-zero INIT_MEM (R10, R280). -/
def State.reset : State := State.init Config.default []

end Sys2Proof.Machine
end

