-- ==== Sys2Proof/Machine/Ops.lean ====
section
/-! DEFINITION. The named operations every meaning is written over: registers, the backing store, the
address-space router, the core's accesses, the output streams, interrupt entry and return, and what ends a
step. -/

namespace Sys2Proof.Machine

/-! ## Registers and the program counter -/

/-- `x[r]`: `x0` reads 0 whatever was written (10_state.md R21). -/
def State.readReg (s : State) (r : RegIdx) : Word :=
  if r = 0#5 then 0#32 else s.regs[r.toNat]'r.isLt

/-- `x[r] <- v`: a write to `x0` is dropped (R22; log 7). -/
def State.writeReg (s : State) (r : RegIdx) (v : Word) : State :=
  if r = 0#5 then s else { s with regs := s.regs.set r.toNat v r.isLt }

/-- `pc <- target`. -/
def State.setPc (s : State) (target : Word) : State := { s with pc := target }

/-- The address of the following instruction, `ipc + 4`, modulo 2^32 (R25, 40_step.md R133). -/
def State.nextPc (s : State) : Word := s.pc + 4#32

/-- The fetch's advance, `pc <- ipc + 4` (R133). A meaning is given the state with `pc = ipc`; log 6. -/
def State.advance (s : State) : State := s.setPc s.nextPc

/-- What an instruction that writes one register does: `x[rd] <- v`, and `pc` stays `ipc + 4`. -/
def State.writeResult (s : State) (rd : RegIdx) (v : Word) : State := (s.writeReg rd v).advance

/-! ## The backing store, byte by byte -/

/-- The byte of the store at an address. -/
def Memory.read : Memory → Nat → Byte
  | [], _ => unlistedByte
  | (k, b) :: m, a => if k = a then b else Memory.read m a

/-- The cell to list for a byte: none where an unlisted address reads the same. -/
def cellFor (a : Nat) (b : Byte) : Memory := if b = unlistedByte then [] else [(a, b)]

/-- Write one byte; the canonical form is kept. -/
def Memory.write : Memory → Nat → Byte → Memory
  | [], a, b => cellFor a b
  | (k, c) :: m, a, b =>
    if a < k then cellFor a b ++ (k, c) :: m
    else if a = k then cellFor a b ++ m
    else (k, c) :: Memory.write m a b

/-- The little-endian word at `a` to `a+3` (20_memory.md R55). -/
def Memory.readWord (m : Memory) (a : Nat) : Word :=
  wordOfBytes (m.read a) (m.read (a + 1)) (m.read (a + 2)) (m.read (a + 3))

/-- `mem[a] <- v[7:0]` up to `mem[a+3] <- v[31:24]` (R56). -/
def Memory.writeWord (m : Memory) (a : Nat) (v : Word) : Memory :=
  (((m.write a (byteOfWord v 0)).write (a + 1) (byteOfWord v 1)).write (a + 2) (byteOfWord v 2)).write
    (a + 3) (byteOfWord v 3)

/-! ## The address-space router -/

/-- The kinds of address (R50). -/
inductive Region where
  | oor
  | io
  | exp
  | vram
  | ram
  | upper
  deriving DecidableEq, Repr

/-- SERIAL_ADDR (R10, R70). -/
def serialAddr : Word := 0x0009FC00#32

/-- `Region(a)`, the tests in the order of R51 with the bounds of R10: IO_BASE and IO_LAST, EXP_BASE and EXP_LAST,
VRAM_BASE and VRAM_LAST, RAM_LAST. The sum does not wrap (D7). Every transaction is routed by its start address
(D6; log 13). -/
def regionOf (memSize : Nat) (a : Word) : Region :=
  if memSize ≤ a.toNat + 3 then .oor
  else if 0x9FC00 ≤ a.toNat ∧ a.toNat ≤ 0x9FFFF then .io
  else if 0x90000 ≤ a.toNat ∧ a.toNat ≤ 0x9FBFF then .exp
  else if 0x80000 ≤ a.toNat ∧ a.toNat ≤ 0x8FFFF then .vram
  else if a.toNat ≤ 0x7FFFF then .ram
  else .upper

/-- Plain storage (R53). -/
def Region.isStorage : Region → Bool
  | .oor => false
  | .io => false
  | .exp => false
  | .vram => true
  | .ram => true
  | .upper => true

/-- The region of an address in this machine; reads and writes use the same one (R52). -/
def State.region (s : State) (a : Word) : Region := regionOf s.config.memSize a

/-- `SerialEmit(b)` (R70). -/
def State.emit (s : State) (b : Byte) : State := { s with serialOut := s.serialOut ++ [b] }

/-- `PeriphRead(a)`: 0 at every IO address, with no side effect (R58, D28). -/
def periphRead (_a : Word) : Word := 0#32

/-- `PeriphWrite(a, v)`: the match on SERIAL_ADDR is exact (R58, D10). -/
def State.periphWrite (s : State) (a v : Word) : State :=
  if a = serialAddr then s.emit (byteOfWord v 0) else s

/-- `BusRead32(a)` (R55, R54, R57). -/
def State.busRead (s : State) (a : Word) : Word :=
  match s.region a with
  | .oor => 0#32
  | .io => periphRead a
  | .exp => 0#32
  | .vram => s.mem.readWord a.toNat
  | .ram => s.mem.readWord a.toNat
  | .upper => s.mem.readWord a.toNat

/-- Store a word at `a` to `a+3` of the backing store. -/
def State.storeWord (s : State) (a v : Word) : State := { s with mem := s.mem.writeWord a.toNat v }

/-- `BusWrite32(a, v)` (R56, R54, R57, R58). -/
def State.busWrite (s : State) (a v : Word) : State :=
  match s.region a with
  | .oor => s
  | .io => s.periphWrite a v
  | .exp => s
  | .vram => s.storeWord a v
  | .ram => s.storeWord a v
  | .upper => s.storeWord a v

/-! ## The core's accesses -/

/-- The access widths (R67). -/
inductive Width where
  | byte
  | half
  | word
  deriving DecidableEq, Repr

/-- The `n` of an access. -/
def Width.bytes : Width → Nat
  | .byte => 1
  | .half => 2
  | .word => 4

/-- `Align(a, n)`: `a & ~(n-1)` (R60). -/
def align (w : Width) (a : Word) : Word := a &&& ~~~(BitVec.ofNat 32 (w.bytes - 1))

/-- The bus read a `MemRead(addr, n)` makes: the address is forced down to alignment first (R61, R62), also for a word
read at MEM_SIZE-3 to MEM_SIZE-1, where R183 says both this and 0 (DESIGN CHOICE, log 31). -/
def State.memReadBus (s : State) (w : Width) (addr : Word) : Word := s.busRead (align w addr)

/-- `MemRead(addr, 1)` (R62). -/
def State.memRead8 (s : State) (addr : Word) : BitVec 8 := (s.memReadBus .byte addr).extractLsb' 0 8

/-- `MemRead(addr, 2)` (R62). -/
def State.memRead16 (s : State) (addr : Word) : BitVec 16 := (s.memReadBus .half addr).extractLsb' 0 16

/-- `MemRead(addr, 4)` (R62). -/
def State.memRead32 (s : State) (addr : Word) : Word := s.memReadBus .word addr

/-- The mask `m` of a sub-word store's merge (R63); a word store replaces every bit. -/
def Width.mask : Width → Word
  | .byte => 0x000000FF#32
  | .half => 0x0000FFFF#32
  | .word => 0xFFFFFFFF#32

/-- `(w & ~m) | (v & m)` (R63). -/
def mergeWord (w : Width) (old v : Word) : Word := (old &&& ~~~w.mask) ||| (v &&& w.mask)

/-- `MemWrite(addr, n, v)`: a word store is one bus write, a sub-word store a read-modify-write through the
bus in every region (R63, D11). -/
def State.memWrite (s : State) (w : Width) (addr v : Word) : State :=
  match w with
  | .byte => s.busWrite (align .byte addr) (mergeWord .byte (s.busRead (align .byte addr)) v)
  | .half => s.busWrite (align .half addr) (mergeWord .half (s.busRead (align .half addr)) v)
  | .word => s.busWrite (align .word addr) v

/-- The address a fetch at pc `p` reads, by FETCH_ALIGN (R64, D9). -/
def State.fetchAddr (s : State) (p : Word) : Word :=
  match s.config.fetchAlign with
  | .alignDown => align .word p
  | .unaligned => p

/-- `Fetch(p)` (R64). -/
def State.fetch (s : State) (p : Word) : Word := s.busRead (s.fetchAddr p)

/-! ## Diagnostics -/

/-- `Report(UnimplementedOperation, (ipc, inst))` (60_exceptions.md R252). -/
def State.report (s : State) (ipc inst : Word) : State :=
  { s with diagOut := s.diagOut ++ [⟨.unimplementedOperation, ipc, inst⟩] }

/-! ## The interrupt -/

/-- Interrupt entry: the pc is saved, control goes to the handler, the flag is cleared (R256). Nothing else is
saved and no mask or mode changes (R258). -/
def State.enterInterrupt (s : State) : State :=
  { s with savedReturnAddress := s.pc, pc := s.config.handlerAddress, pending := false }

/-- Phase 1 of a step, the interrupt check (R130, R256). -/
def State.interruptCheck (s : State) : State := if s.pending then s.enterInterrupt else s

/-- Interrupt return: only `pc` is restored (R262). -/
def State.returnFromInterrupt (s : State) : State := s.setPc s.savedReturnAddress

/-! ## What a step executes -/

/-- The instruction the step of a state executes: the word at the pc that phase 1 leaves (R131, R133). -/
def State.currentInstr (s : State) : Instr := decode (s.interruptCheck.fetch s.interruptCheck.pc)

/-- The address the next step fetches from. -/
def State.nextFetchAddr (s : State) : Word := s.interruptCheck.fetchAddr s.interruptCheck.pc

/-- A state whose next fetch is from storage: `s` itself, or, where it would fetch from EXP, IO or OOR, which
read 0 whatever is stored (R64), `s` at the reset entry point with no interrupt pending. Log 8. -/
def State.atStorage (s : State) : State :=
  if (s.region s.nextFetchAddr).isStorage then s else { s with pc := 0#32, pending := false }

/-! ## The end of a step -/

/-- `x[0] <- 0` (40_step.md R137). -/
def State.resetX0 (s : State) : State := { s with regs := s.regs.set 0 0#32 }

/-- Interrupt scheduling: `icount <- icount + 1`, and at IRQ_THRESHOLD the flag is set and the count restarts
(R255, D14; log 11). -/
def State.scheduleInterrupt (s : State) : State :=
  if s.icount + 1 = s.config.irqThreshold then { s with pending := true, icount := 0 }
  else { s with icount := s.icount + 1 }

/-- A step of this instruction is a counted instruction: every one but IRET, which ends the step before
execute (R134, R138, D18). -/
def isCounted (i : Instr) : Bool := i != .iret

/-- What follows execute in a step: for a counted instruction the x0 reset, then interrupt scheduling; for
IRET nothing (R130, R134). -/
def State.finishStep (s : State) (i : Instr) : State :=
  if isCounted i then s.resetX0.scheduleInterrupt else s

end Sys2Proof.Machine
end

