-- ==== Sys2Proof/Machine/Operands.lean ====
section
/-! DEFINITION. The operand forms: immediates extended to 32 bits (30_encoding.md R104 to R109), shift
amounts, and the one addressing mode (43_load_store.md R180). -/

namespace Sys2Proof.Machine

/-- `immI = sext_12(…)` (R104). -/
def immI (imm : BitVec 12) : Word := imm.signExtend 32

/-- `immS = sext_12(…)` (R105). -/
def immS (imm : BitVec 12) : Word := imm.signExtend 32

/-- `immB = sext_13(…)` (R106). -/
def immB (imm : BitVec 13) : Word := imm.signExtend 32

/-- `immU = inst[31:12] ++ 0x000` (R107). -/
def immU (imm : BitVec 20) : Word := imm ++ 0#12

/-- `immJ = sext_21(…)` (R108). -/
def immJ (imm : BitVec 21) : Word := imm.signExtend 32

/-- The register form's shift amount, `x[rs2][4:0]` (R109). -/
def shiftAmount (v : Word) : BitVec 5 := v.extractLsb' 0 5

/-- A load's effective address, `x[rs1] + immI`, modulo 2^32 (R180). -/
def State.loadAddr (s : State) (rs1 : RegIdx) (imm : BitVec 12) : Word := s.readReg rs1 + immI imm

/-- A store's effective address, `x[rs1] + immS`, modulo 2^32 (R180). -/
def State.storeAddr (s : State) (rs1 : RegIdx) (imm : BitVec 12) : Word := s.readReg rs1 + immS imm

/-- `a << n` (R13). -/
def shiftLeft (a : Word) (n : BitVec 5) : Word := a <<< n.toNat

/-- `a >>u n`, zeros shifted in (R13). -/
def shiftRightU (a : Word) (n : BitVec 5) : Word := a >>> n.toNat

/-- `a >>s n`, copies of bit 31 shifted in (R13). -/
def shiftRightS (a : Word) (n : BitVec 5) : Word := a.sshiftRight n.toNat

end Sys2Proof.Machine
end

