-- ==== Sys2Proof/Machine/AluImmediate.lean ====
section
/-! DEFINITION. The register-immediate ALU instructions (44_alu_immediate.md). Arithmetic wraps modulo 2^32
(45_alu_register.md R230, D2). -/

namespace Sys2Proof.Machine

/-- ADDI: `x[rd] <- x[rs1] + immI` (R200). -/
def execAddi (rd rs1 : RegIdx) (imm : BitVec 12) (s : State) : Host.Outcome State Fault Refusal :=
  .next (s.writeResult rd (s.readReg rs1 + immI imm))

/-- SLTI: `x[rd] <- (x[rs1] <s immI) ? 1 : 0` (R201). -/
def execSlti (rd rs1 : RegIdx) (imm : BitVec 12) (s : State) : Host.Outcome State Fault Refusal :=
  .next (s.writeResult rd (wordOfCond (condLtS (s.readReg rs1) (immI imm))))

/-- SLTIU: the immediate is sign-extended first, then compared unsigned (R202). -/
def execSltiu (rd rs1 : RegIdx) (imm : BitVec 12) (s : State) : Host.Outcome State Fault Refusal :=
  .next (s.writeResult rd (wordOfCond (condLtU (s.readReg rs1) (immI imm))))

/-- XORI: `x[rd] <- x[rs1] ^ immI` (R203). -/
def execXori (rd rs1 : RegIdx) (imm : BitVec 12) (s : State) : Host.Outcome State Fault Refusal :=
  .next (s.writeResult rd (s.readReg rs1 ^^^ immI imm))

/-- ORI: `x[rd] <- x[rs1] | immI` (R204). -/
def execOri (rd rs1 : RegIdx) (imm : BitVec 12) (s : State) : Host.Outcome State Fault Refusal :=
  .next (s.writeResult rd (s.readReg rs1 ||| immI imm))

/-- ANDI: `x[rd] <- x[rs1] & immI` (R205). -/
def execAndi (rd rs1 : RegIdx) (imm : BitVec 12) (s : State) : Host.Outcome State Fault Refusal :=
  .next (s.writeResult rd (s.readReg rs1 &&& immI imm))

/-- SLLI: `x[rd] <- x[rs1] << shamt` (R206). -/
def execSlli (rd rs1 : RegIdx) (shamt : BitVec 5) (s : State) : Host.Outcome State Fault Refusal :=
  .next (s.writeResult rd (shiftLeft (s.readReg rs1) shamt))

/-- SRLI: `x[rd] <- x[rs1] >>u shamt` (R207). -/
def execSrli (rd rs1 : RegIdx) (shamt : BitVec 5) (s : State) : Host.Outcome State Fault Refusal :=
  .next (s.writeResult rd (shiftRightU (s.readReg rs1) shamt))

/-- SRAI: `x[rd] <- x[rs1] >>s shamt` (R208). -/
def execSrai (rd rs1 : RegIdx) (shamt : BitVec 5) (s : State) : Host.Outcome State Fault Refusal :=
  .next (s.writeResult rd (shiftRightS (s.readReg rs1) shamt))

end Sys2Proof.Machine
end

