-- ==== Sys2Proof/Machine/AluRegister.lean ====
section
/-! DEFINITION. The register-register ALU instructions (45_alu_register.md). Arithmetic wraps modulo 2^32 (R230,
D2); shift amounts are `x[rs2][4:0]` (30_encoding.md R109). -/

namespace Sys2Proof.Machine

/-- ADD (R220). -/
def execAdd (rd rs1 rs2 : RegIdx) (s : State) : Host.Outcome State Fault Refusal :=
  .next (s.writeResult rd (s.readReg rs1 + s.readReg rs2))

/-- SUB (R221). -/
def execSub (rd rs1 rs2 : RegIdx) (s : State) : Host.Outcome State Fault Refusal :=
  .next (s.writeResult rd (s.readReg rs1 - s.readReg rs2))

/-- SLL: shift left logical (R222). -/
def execSll (rd rs1 rs2 : RegIdx) (s : State) : Host.Outcome State Fault Refusal :=
  .next (s.writeResult rd (shiftLeft (s.readReg rs1) (shiftAmount (s.readReg rs2))))

/-- SLT: set if less than, signed (R223). -/
def execSlt (rd rs1 rs2 : RegIdx) (s : State) : Host.Outcome State Fault Refusal :=
  .next (s.writeResult rd (wordOfCond (condLtS (s.readReg rs1) (s.readReg rs2))))

/-- SLTU: set if less than, unsigned (R224). -/
def execSltu (rd rs1 rs2 : RegIdx) (s : State) : Host.Outcome State Fault Refusal :=
  .next (s.writeResult rd (wordOfCond (condLtU (s.readReg rs1) (s.readReg rs2))))

/-- XOR (R225). -/
def execXor (rd rs1 rs2 : RegIdx) (s : State) : Host.Outcome State Fault Refusal :=
  .next (s.writeResult rd (s.readReg rs1 ^^^ s.readReg rs2))

/-- SRL: shift right logical (R226). -/
def execSrl (rd rs1 rs2 : RegIdx) (s : State) : Host.Outcome State Fault Refusal :=
  .next (s.writeResult rd (shiftRightU (s.readReg rs1) (shiftAmount (s.readReg rs2))))

/-- SRA: shift right arithmetic (R227). -/
def execSra (rd rs1 rs2 : RegIdx) (s : State) : Host.Outcome State Fault Refusal :=
  .next (s.writeResult rd (shiftRightS (s.readReg rs1) (shiftAmount (s.readReg rs2))))

/-- OR (R228). -/
def execOr (rd rs1 rs2 : RegIdx) (s : State) : Host.Outcome State Fault Refusal :=
  .next (s.writeResult rd (s.readReg rs1 ||| s.readReg rs2))

/-- AND (R229). -/
def execAnd (rd rs1 rs2 : RegIdx) (s : State) : Host.Outcome State Fault Refusal :=
  .next (s.writeResult rd (s.readReg rs1 &&& s.readReg rs2))

end Sys2Proof.Machine
end

