-- ==== Sys2Proof/Machine/ControlTransfer.lean ====
section
/-! DEFINITION. JAL, JALR and the branches (42_control_transfer.md). Targets are computed from `ipc` (40_step.md
R135, C1, D19), from values read before any write (R136, D4); no target is checked for alignment (R172). -/

namespace Sys2Proof.Machine

/-- A jump: `x[rd] <- ipc + 4`, then `pc <- target` (R160, R162). -/
def State.linkAndJump (s : State) (rd : RegIdx) (target : Word) : State :=
  (s.writeReg rd s.nextPc).setPc target

/-- JAL's target, `ipc + immJ` (R160). -/
def State.jalTarget (s : State) (imm : BitVec 21) : Word := s.pc + immJ imm

/-- JALR's target, `(x[rs1] + immI) & 0xFFFFFFFE` (R162). -/
def State.jalrTarget (s : State) (rs1 : RegIdx) (imm : BitVec 12) : Word :=
  (s.readReg rs1 + immI imm) &&& 0xFFFFFFFE#32

/-- A branch: `pc <- ipc + immB` if the condition holds, else `pc` stays `ipc + 4` (R164). -/
def State.branch (s : State) (cond : Bool) (imm : BitVec 13) : State :=
  if cond then s.setPc (s.pc + immB imm) else s.advance

/-- JAL (R160). -/
def execJal (rd : RegIdx) (imm : BitVec 21) (s : State) : Host.Outcome State Fault Refusal :=
  .next (s.linkAndJump rd (s.jalTarget imm))

/-- JALR (R162). -/
def execJalr (rd rs1 : RegIdx) (imm : BitVec 12) (s : State) : Host.Outcome State Fault Refusal :=
  .next (s.linkAndJump rd (s.jalrTarget rs1 imm))

/-- The halt convention's word is an ordinary `JAL x0, 0` (R112, R243). -/
def execHalt (s : State) : Host.Outcome State Fault Refusal :=
  .next (s.linkAndJump 0#5 (s.jalTarget 0#21))

/-- BEQ: equal (R165). -/
def execBeq (rs1 rs2 : RegIdx) (imm : BitVec 13) (s : State) : Host.Outcome State Fault Refusal :=
  .next (s.branch (condEq (s.readReg rs1) (s.readReg rs2)) imm)

/-- BNE: not equal (R166). -/
def execBne (rs1 rs2 : RegIdx) (imm : BitVec 13) (s : State) : Host.Outcome State Fault Refusal :=
  .next (s.branch (!condEq (s.readReg rs1) (s.readReg rs2)) imm)

/-- BLT: less than, signed (R167). -/
def execBlt (rs1 rs2 : RegIdx) (imm : BitVec 13) (s : State) : Host.Outcome State Fault Refusal :=
  .next (s.branch (condLtS (s.readReg rs1) (s.readReg rs2)) imm)

/-- BGE: greater or equal, signed (R168). -/
def execBge (rs1 rs2 : RegIdx) (imm : BitVec 13) (s : State) : Host.Outcome State Fault Refusal :=
  .next (s.branch (!condLtS (s.readReg rs1) (s.readReg rs2)) imm)

/-- BLTU: less than, unsigned (R169). -/
def execBltu (rs1 rs2 : RegIdx) (imm : BitVec 13) (s : State) : Host.Outcome State Fault Refusal :=
  .next (s.branch (condLtU (s.readReg rs1) (s.readReg rs2)) imm)

/-- BGEU: greater or equal, unsigned (R170). -/
def execBgeu (rs1 rs2 : RegIdx) (imm : BitVec 13) (s : State) : Host.Outcome State Fault Refusal :=
  .next (s.branch (!condLtU (s.readReg rs1) (s.readReg rs2)) imm)

end Sys2Proof.Machine
end

