-- ==== Sys2Proof/Machine/LoadStore.lean ====
section
/-! DEFINITION. Loads and stores (43_load_store.md) over `MemRead` and `MemWrite` (20_memory.md R62, R63). A load
reads memory before it writes `rd` (40_step.md R136). -/

namespace Sys2Proof.Machine

/-- LB: `x[rd] <- sext_8(MemRead(ea, 1))` (R181). -/
def execLb (rd rs1 : RegIdx) (imm : BitVec 12) (s : State) : Host.Outcome State Fault Refusal :=
  .next (s.writeResult rd ((s.memRead8 (s.loadAddr rs1 imm)).signExtend 32))

/-- LH: `x[rd] <- sext_16(MemRead(ea, 2))` (R182). -/
def execLh (rd rs1 : RegIdx) (imm : BitVec 12) (s : State) : Host.Outcome State Fault Refusal :=
  .next (s.writeResult rd ((s.memRead16 (s.loadAddr rs1 imm)).signExtend 32))

/-- LW: `x[rd] <- MemRead(ea, 4)` (R183; at MEM_SIZE-3 to MEM_SIZE-1: DESIGN CHOICE, log 31). -/
def execLw (rd rs1 : RegIdx) (imm : BitVec 12) (s : State) : Host.Outcome State Fault Refusal :=
  .next (s.writeResult rd (s.memRead32 (s.loadAddr rs1 imm)))

/-- LBU: `x[rd] <- zext_8(MemRead(ea, 1))` (R184). -/
def execLbu (rd rs1 : RegIdx) (imm : BitVec 12) (s : State) : Host.Outcome State Fault Refusal :=
  .next (s.writeResult rd ((s.memRead8 (s.loadAddr rs1 imm)).zeroExtend 32))

/-- LHU: `x[rd] <- zext_16(MemRead(ea, 2))` (R185). -/
def execLhu (rd rs1 : RegIdx) (imm : BitVec 12) (s : State) : Host.Outcome State Fault Refusal :=
  .next (s.writeResult rd ((s.memRead16 (s.loadAddr rs1 imm)).zeroExtend 32))

/-- SB: `MemWrite(ea, 1, x[rs2])` (R186). -/
def execSb (rs1 rs2 : RegIdx) (imm : BitVec 12) (s : State) : Host.Outcome State Fault Refusal :=
  .next (s.memWrite .byte (s.storeAddr rs1 imm) (s.readReg rs2)).advance

/-- SH: `MemWrite(ea, 2, x[rs2])` (R187). -/
def execSh (rs1 rs2 : RegIdx) (imm : BitVec 12) (s : State) : Host.Outcome State Fault Refusal :=
  .next (s.memWrite .half (s.storeAddr rs1 imm) (s.readReg rs2)).advance

/-- SW: `MemWrite(ea, 4, x[rs2])` (R188). -/
def execSw (rs1 rs2 : RegIdx) (imm : BitVec 12) (s : State) : Host.Outcome State Fault Refusal :=
  .next (s.memWrite .word (s.storeAddr rs1 imm) (s.readReg rs2)).advance

end Sys2Proof.Machine
end

