-- ==== Sys2Proof/Machine/Sentinel.lean ====
section
/-! DEFINITION. IRET and the unimplemented words (46_unimplemented_and_sentinels.md, 60_exceptions.md). The halt
word is a JAL and stands in ControlTransfer.lean. -/

namespace Sys2Proof.Machine

/-- An unimplemented word: one report with the instruction's address and word, and `pc` stays `ipc + 4`
(R240, R139, R252). -/
def State.skipUnimplemented (s : State) (inst : Word) : State := (s.report s.pc inst).advance

/-- IRET: `pc <- saved_return_address`, nothing else (R262). -/
def execIret (s : State) : Host.Outcome State Fault Refusal := .next s.returnFromInterrupt

/-- FENCE executes as an unimplemented word (R240, R241). -/
def execFence (rd rs1 : RegIdx) (imm : BitVec 12) (s : State) : Host.Outcome State Fault Refusal :=
  .next (s.skipUnimplemented (encodeI imm rs1 0b000#3 rd opMiscMem))

/-- FENCE.I executes as an unimplemented word (R240, R241). -/
def execFencei (rd rs1 : RegIdx) (imm : BitVec 12) (s : State) : Host.Outcome State Fault Refusal :=
  .next (s.skipUnimplemented (encodeI imm rs1 0b001#3 rd opMiscMem))

/-- ECALL executes as an unimplemented word (R240, R241). -/
def execEcall (s : State) : Host.Outcome State Fault Refusal := .next (s.skipUnimplemented ecallWord)

/-- EBREAK executes as an unimplemented word (R240, R241). -/
def execEbreak (s : State) : Host.Outcome State Fault Refusal := .next (s.skipUnimplemented ebreakWord)

/-- UNIMPLEMENTED (R240). -/
def execUnimplemented (word : Word) (s : State) : Host.Outcome State Fault Refusal :=
  .next (s.skipUnimplemented word)

end Sys2Proof.Machine
end

