-- ==== Sys2Proof/Machine/UpperImmediate.lean ====
section
/-! DEFINITION. LUI and AUIPC (41_upper_immediate.md). Every meaning is given the state with `pc = ipc`, the
instruction's own address, and answers the state after `Execute` (40_step.md R130, R133; log 6). -/

namespace Sys2Proof.Machine

/-- LUI: `x[rd] <- immU` (R150). -/
def execLui (rd : RegIdx) (imm : BitVec 20) (s : State) : Host.Outcome State Fault Refusal :=
  .next (s.writeResult rd (immU imm))

/-- AUIPC: `x[rd] <- ipc + immU` (R151). -/
def execAuipc (rd : RegIdx) (imm : BitVec 20) (s : State) : Host.Outcome State Fault Refusal :=
  .next (s.writeResult rd (s.pc + immU imm))

end Sys2Proof.Machine
end

