-- ==== Sys2Proof/Machine/Step.lean ====
section
/-! DEFINITION. The core's one transition (40_step.md R130), and the state in which the next step fetches a given
word. Everything a step does stands in Ops.lean, Decode.lean and the meanings. -/

namespace Sys2Proof.Machine

/-- Apply a function to a next state. -/
def mapNext (f : State → State) : Host.Outcome State Fault Refusal → Host.Outcome State Fault Refusal
  | .next s => .next (f s)
  | .fault r => .fault r
  | .refused r => .refused r

/-- One step: interrupt check, fetch, decode, execute, x0 reset and interrupt scheduling (R130, R131). -/
def step (s : State) : Host.Outcome State Fault Refusal :=
  mapNext (·.finishStep s.currentInstr) (exec s.currentInstr s.interruptCheck)

/-- `s` with the word of a table row (its bits numbered as the table numbers them) where the next step fetches. -/
def State.withFetchWord (s : State) (nbits w : Nat) : State :=
  s.atStorage.storeWord s.atStorage.nextFetchAddr (tableWord nbits w)

end Sys2Proof.Machine
end

