-- ==== Sys2Proof/Machine/Run.lean ====
section
/-! DEFINITION. The caller's run function (70_reset_and_hazards.md R288, D22), which the spec asks a model to
provide alongside `step`. -/

namespace Sys2Proof.Machine

/-- Why a run ended (R288). -/
inductive RunEnd where
  | halted
  | outOfSteps
  deriving DecidableEq, Repr

/-- The caller's halt test: the word at `pc` is the halt word, whatever `pending` says (R288). -/
def State.atHalt (s : State) : Bool := s.fetch s.pc == haltWord

/-- `Run(s, budget)` (R288): the halt test first, then the budget, then one step. -/
def run : Nat → State → Host.Outcome (State × RunEnd) Fault Refusal
  | 0, s => if s.atHalt then .next (s, .halted) else .next (s, .outOfSteps)
  | budget + 1, s =>
    if s.atHalt then .next (s, .halted)
    else
      match step s with
      | .next t => run budget t
      | .fault r => .fault r
      | .refused r => .refused r

end Sys2Proof.Machine
end

