-- ==== Sys2Proof/Safety.lean ====
section
/-! DEFINITION. What claims call a good state and a good outcome. -/

namespace Sys2Proof.Machine

/-- The step of a state has a next state: no fault, no refusal (40_step.md R132). -/
def State.Goes (s : State) : Prop := ∃ t, step s = .next t

/-- The register an instruction writes (10_state.md R23, 30_encoding.md R103). -/
def destOf : Instr → Option RegIdx
  | .lui rd _ | .auipc rd _ | .jal rd _ | .jalr rd _ _ => some rd
  | .lb rd _ _ | .lh rd _ _ | .lw rd _ _ | .lbu rd _ _ | .lhu rd _ _ => some rd
  | .addi rd _ _ | .slti rd _ _ | .sltiu rd _ _ | .xori rd _ _ | .ori rd _ _ | .andi rd _ _ => some rd
  | .slli rd _ _ | .srli rd _ _ | .srai rd _ _ => some rd
  | .add rd _ _ | .sub rd _ _ | .sll rd _ _ | .slt rd _ _ | .sltu rd _ _ => some rd
  | .xor rd _ _ | .srl rd _ _ | .sra rd _ _ | .or rd _ _ | .and rd _ _ => some rd
  | .beq _ _ _ | .bne _ _ _ | .blt _ _ _ | .bge _ _ _ | .bltu _ _ _ | .bgeu _ _ _ => none
  | .sb _ _ _ | .sh _ _ _ | .sw _ _ _ | .iret | .halt => none
  | .fence _ _ _ | .fencei _ _ _ | .ecall | .ebreak | .unimplemented _ => none

/-- The data store an instruction makes from `s`: width, aligned address, value (43_load_store.md R186 to R188). -/
def storeOf (s : State) : Instr → Option (Width × Word × Word)
  | .sb rs1 rs2 imm => some (.byte, align .byte (s.storeAddr rs1 imm), s.readReg rs2)
  | .sh rs1 rs2 imm => some (.half, align .half (s.storeAddr rs1 imm), s.readReg rs2)
  | .sw rs1 rs2 imm => some (.word, align .word (s.storeAddr rs1 imm), s.readReg rs2)
  | .lui _ _ | .auipc _ _ | .jal _ _ | .jalr _ _ _ => none
  | .beq _ _ _ | .bne _ _ _ | .blt _ _ _ | .bge _ _ _ | .bltu _ _ _ | .bgeu _ _ _ => none
  | .lb _ _ _ | .lh _ _ _ | .lw _ _ _ | .lbu _ _ _ | .lhu _ _ _ => none
  | .addi _ _ _ | .slti _ _ _ | .sltiu _ _ _ | .xori _ _ _ | .ori _ _ _ | .andi _ _ _ => none
  | .slli _ _ _ | .srli _ _ _ | .srai _ _ _ => none
  | .add _ _ _ | .sub _ _ _ | .sll _ _ _ | .slt _ _ _ | .sltu _ _ _ => none
  | .xor _ _ _ | .srl _ _ _ | .sra _ _ _ | .or _ _ _ | .and _ _ _ => none
  | .iret | .halt | .fence _ _ _ | .fencei _ _ _ | .ecall | .ebreak | .unimplemented _ => none

/-- The instructions that execute as unimplemented words (46_unimplemented_and_sentinels.md R240, R241). -/
def isUnimplemented : Instr → Bool
  | .fence _ _ _ | .fencei _ _ _ | .ecall | .ebreak | .unimplemented _ => true
  | .lui _ _ | .auipc _ _ | .jal _ _ | .jalr _ _ _ => false
  | .beq _ _ _ | .bne _ _ _ | .blt _ _ _ | .bge _ _ _ | .bltu _ _ _ | .bgeu _ _ _ => false
  | .lb _ _ _ | .lh _ _ _ | .lw _ _ _ | .lbu _ _ _ | .lhu _ _ _ | .sb _ _ _ | .sh _ _ _ | .sw _ _ _ => false
  | .addi _ _ _ | .slti _ _ _ | .sltiu _ _ _ | .xori _ _ _ | .ori _ _ _ | .andi _ _ _ => false
  | .slli _ _ _ | .srli _ _ _ | .srai _ _ _ => false
  | .add _ _ _ | .sub _ _ _ | .sll _ _ _ | .slt _ _ _ | .sltu _ _ _ => false
  | .xor _ _ _ | .srl _ _ _ | .sra _ _ _ | .or _ _ _ | .and _ _ _ | .iret | .halt => false

/-- The invariant of the core's states: what holds at reset of any machine and every step keeps. -/
structure State.Inv (s : State) : Prop where
  /-- The parameters meet the constraints of R10. -/
  configWf : s.config.wf
  /-- The memory is in canonical form. -/
  memWf : s.mem.wf
  /-- Only bytes of the backing store are listed (R33). -/
  memInside : ∀ c ∈ s.mem, c.1 < s.config.memSize
  /-- `x0` holds 0 (R137). -/
  x0Zero : s.regs[0] = 0#32
  /-- `icount` lies in [0, IRQ_THRESHOLD-1] (R32). -/
  icountBelow : s.icount < s.config.irqThreshold
  /-- A pending interrupt was scheduled by the last counted step, which restarted the count (R255). -/
  pendingFresh : s.pending = true → s.icount = 0

/-- `t` is reached from `s` by `n` steps. -/
inductive Reaches : Nat → State → State → Prop where
  | refl (s : State) : Reaches 0 s s
  | tail {n : Nat} {s t u : State} : Reaches n s t → step t = .next u → Reaches (n + 1) s u

/-- `t` is reached from `s` by `n` steps, each a counted instruction: none of them executes IRET (R138). -/
inductive ReachesCounted : Nat → State → State → Prop where
  | refl (s : State) : ReachesCounted 0 s s
  | tail {n : Nat} {s t u : State} :
      ReachesCounted n s t → isCounted t.currentInstr = true → step t = .next u → ReachesCounted (n + 1) s u

end Sys2Proof.Machine
end

