-- ==== Sys2Proof/Certificates/Slice0/Obligations.lean ====
section
/-! DEFINITION. The statements about the core, for the provers. Each docstring names the rules of spec/ it states;
where a statement rests on a decision or an inference the spec marks as its own, or on a log entry, it says so. -/

namespace Sys2Proof.Claims

open Sys2Proof.Machine

/-! ## The words the statements are written in -/

/-- Every register reads as before. -/
def SameRegs (s t : State) : Prop := ∀ r, t.readReg r = s.readReg r

/-- Every byte of memory reads as before. -/
def SameMem (s t : State) : Prop := ∀ a, t.mem.read a = s.mem.read a

/-- The interrupt's registers and the parameters (`handler_address` among them) are as before. -/
def SameControl (s t : State) : Prop :=
  t.pending = s.pending ∧ t.savedReturnAddress = s.savedReturnAddress ∧ t.icount = s.icount ∧ t.config = s.config

/-- Nothing was added to either output stream. -/
def SameOutputs (s t : State) : Prop := t.serialOut = s.serialOut ∧ t.diagOut = s.diagOut

/-- `x[rd] <- v` (dropped where `rd` is `x0`), and nothing else changes but the pc. -/
def WroteReg (s t : State) (rd : RegIdx) (v : Word) : Prop :=
  t.readReg rd = (if rd = 0#5 then 0#32 else v) ∧ (∀ r, r ≠ rd → t.readReg r = s.readReg r) ∧
    SameMem s t ∧ SameControl s t ∧ SameOutputs s t

/-- `i` completes in `s`: it writes to `rd` a value that meets `P`, `pc` becomes `ipc + 4`, and nothing else
changes. -/
def Computes (i : Instr) (s : State) (rd : RegIdx) (P : Word → Prop) : Prop :=
  ∃ t v, exec i s = .next t ∧ P v ∧ WroteReg s t rd v ∧ t.pc = s.pc + 4#32

/-- `i` completes in `s` as a branch: `pc` becomes `ipc + immB` if the condition holds, else `ipc + 4`, and
nothing else changes. -/
def Branches (i : Instr) (s : State) (imm : BitVec 13) (cond : Prop) : Prop :=
  ∃ t, exec i s = .next t ∧ (cond → t.pc = BitVec.ofInt 32 (s.pc.toNat + imm.toInt)) ∧
    (¬ cond → t.pc = s.pc + 4#32) ∧ SameRegs s t ∧ SameMem s t ∧ SameControl s t ∧ SameOutputs s t

/-- The little-endian value of `n` bytes of memory at `a`. -/
def leValue (m : Memory) (a : Nat) : Nat → Nat
  | 0 => 0
  | n + 1 => (m.read a).toNat + 256 * leValue m (a + 1) n

/-- The value `n` bytes at `a` load as: the bytes in storage, 0 in every other region (R74). -/
def loaded (s : State) (a : Word) (n : Nat) : Nat :=
  if (s.region a).isStorage then leValue s.mem a.toNat n else 0

/-- `i` completes in `s` as a store of the low `w.bytes` bytes of `v` at the aligned address `a`: in storage
exactly those bytes change; at SERIAL_ADDR the low byte is emitted; elsewhere nothing happens (R74). -/
def Stores (i : Instr) (s : State) (w : Width) (a v : Word) : Prop :=
  ∃ t, exec i s = .next t ∧ t.pc = s.pc + 4#32 ∧ SameRegs s t ∧ SameControl s t ∧ t.diagOut = s.diagOut ∧
    ((s.region a).isStorage = true → ∀ k, k < w.bytes → t.mem.read (a.toNat + k) = byteOfWord v k) ∧
    (∀ b, ¬ ((s.region a).isStorage = true ∧ a.toNat ≤ b ∧ b < a.toNat + w.bytes) →
      t.mem.read b = s.mem.read b) ∧
    t.serialOut = s.serialOut ++ (if s.region a = .io ∧ a = 0x0009FC00#32 then [byteOfWord v 0] else [])

/-- `i` completes in `s` as an unimplemented word: one report of the instruction's address and word, `pc`
becomes `ipc + 4`, and nothing else changes. -/
def Skips (i : Instr) (s : State) (word : Word) : Prop :=
  ∃ t, exec i s = .next t ∧ t.pc = s.pc + 4#32 ∧ t.diagOut = s.diagOut ++ [⟨.unimplementedOperation, s.pc, word⟩] ∧
    t.serialOut = s.serialOut ∧ SameRegs s t ∧ SameMem s t ∧ SameControl s t

/-- Phase 1 of the step, as R130 and R256 write it. -/
def afterCheck (s : State) : State :=
  if s.pending = true then
    { s with savedReturnAddress := s.pc, pc := s.config.handlerAddress, pending := false }
  else s

/-- The instruction the step of `s` executes. -/
def stepInstr (s : State) : Instr := decode ((afterCheck s).fetch (afterCheck s).pc)

/-- Two states that differ in nothing but the bytes of memory inside EXP and IO. -/
def AgreeOutsideExpAndIo (s t : State) : Prop :=
  s.config = t.config ∧ s.regs = t.regs ∧ s.pc = t.pc ∧ s.pending = t.pending ∧
    s.savedReturnAddress = t.savedReturnAddress ∧ s.icount = t.icount ∧ s.serialOut = t.serialOut ∧
    s.diagOut = t.diagOut ∧ ∀ a, ¬ (0x90000 ≤ a ∧ a ≤ 0x9FFFF) → s.mem.read a = t.mem.read a

/-- Every value `pc` can take from has bit 0 clear. -/
def EvenPc (s : State) : Prop :=
  s.pc.toNat % 2 = 0 ∧ s.savedReturnAddress.toNat % 2 = 0 ∧ s.config.handlerAddress.toNat % 2 = 0

/-- The immediate of an I-type instruction (R104). -/
def immIOf : Instr → Option (BitVec 12)
  | .jalr _ _ imm | .lb _ _ imm | .lh _ _ imm | .lw _ _ imm | .lbu _ _ imm | .lhu _ _ imm => some imm
  | .addi _ _ imm | .slti _ _ imm | .sltiu _ _ imm | .xori _ _ imm | .ori _ _ imm | .andi _ _ imm => some imm
  | _ => none

/-- The immediate of a STORE (R105). -/
def immSOf : Instr → Option (BitVec 12)
  | .sb _ _ imm | .sh _ _ imm | .sw _ _ imm => some imm
  | _ => none

/-- The immediate of a BRANCH (R106). -/
def immBOf : Instr → Option (BitVec 13)
  | .beq _ _ imm | .bne _ _ imm | .blt _ _ imm | .bge _ _ imm | .bltu _ _ imm | .bgeu _ _ imm => some imm
  | _ => none

/-- The immediate of LUI or AUIPC (R107). -/
def immUOf : Instr → Option (BitVec 20)
  | .lui _ imm | .auipc _ imm => some imm
  | _ => none

/-- The immediate of JAL (R108); the halt word is `JAL x0, 0` (R112). -/
def immJOf : Instr → Option (BitVec 21)
  | .jal _ imm => some imm
  | .halt => some 0#21
  | _ => none

end Sys2Proof.Claims

open Sys2Proof Sys2Proof.Machine Sys2Proof.Claims

/-! ## Encoding -/

/-- Every well-formed instruction, with every operand, is what its own word decodes to (R115 is total and R102 to
R108 give the words; the funct numbers are R113's and R114's, log 3; `halt` is log 4). -/
def Obligations.DecodeOfEncodeIsTheInstruction : Prop :=
  ∀ i : Instr, i.wf = true → decode (encode i) = i

/-- No bit of a word is dropped: encoding what a word decodes to gives the word back, for all 2^32 words. -/
def Obligations.EncodeOfDecodeIsTheWord : Prop :=
  ∀ w : Word, encode (decode w) = w

/-- Decoding only answers well-formed instructions: branch and jump offsets are even (R106, R108), the halt word
is not a `jal` (log 4), an unimplemented word lies in no row of the table. -/
def Obligations.DecodeAnswersWellFormedInstructions : Prop :=
  ∀ w : Word, (decode w).wf = true

/-- The decoder against the opcode table's match and mask rows: a word in a row decodes to that row's instruction
(the one word in two rows, `0x0000006F`, to the halt row; log 4), a word in no row is UNIMPLEMENTED (R115, R240). -/
def Obligations.DecodeFollowsTheOpcodeTable : Prop :=
  ∀ w : Word,
    (∀ r ∈ namedRows, r.holds w = true → (decode w).row = r ∨ (r.mnemonic = "JAL" ∧ w = 0x0000006F#32)) ∧
      ((∀ r ∈ namedRows, r.holds w = false) → decode w = .unimplemented w)

/-- Words written out from the spec's encodings (R120, and one of each family from 41 to 45). `0x0000006F`, the
spec's `JAL x0, 0`, is the model's `halt` (log 4); the unimplemented standard words have rows of their own (log 5). -/
def Obligations.SampleWordsDecode : Prop :=
  decode 0x00500093#32 = .addi 1#5 0#5 5#12 ∧ decode 0x002081B3#32 = .add 3#5 1#5 2#5 ∧
    decode 0x0000006F#32 = .halt ∧ decode 0xFFFFFFFF#32 = .iret ∧
    decode 0x00000000#32 = .unimplemented 0x00000000#32 ∧ decode 0xFE000EE3#32 = .beq 0#5 0#5 0x1FFC#13 ∧
    decode 0x800000EF#32 = .jal 1#5 0x100000#21 ∧ decode 0x40000033#32 = .sub 0#5 0#5 0#5 ∧
    decode 0x02000033#32 = .unimplemented 0x02000033#32 ∧ decode 0x40001013#32 = .unimplemented 0x40001013#32 ∧
    decode 0x0000100F#32 = .fencei 0#5 0#5 0#12 ∧ decode 0x00000073#32 = .ecall ∧
    decode 0x123452B7#32 = .lui 5#5 0x12345#20 ∧ decode 0x003280E7#32 = .jalr 1#5 5#5 3#12 ∧
    decode 0x00209183#32 = .lh 3#5 1#5 2#12 ∧ decode 0xFE20AE23#32 = .sw 1#5 2#5 0xFFC#12 ∧
    decode 0x4040D193#32 = .srai 3#5 1#5 4#5

/-- R104 to R108: each immediate bit by bit, its sign extension, its range, and the classes that use it. -/
def Obligations.ImmediateLayouts : Prop :=
  ∀ w : Word,
    ((∀ k, k < 12 → (immI (immIField w)).getLsbD k = w.getLsbD (20 + k)) ∧
      (∀ k, 12 ≤ k → k < 32 → (immI (immIField w)).getLsbD k = w.getLsbD 31) ∧
      -2048 ≤ (immI (immIField w)).toInt ∧ (immI (immIField w)).toInt ≤ 2047 ∧
      (∀ imm, immIOf (decode w) = some imm → imm = immIField w)) ∧
    ((∀ k, k < 5 → (immS (immSField w)).getLsbD k = w.getLsbD (7 + k)) ∧
      (∀ k, k < 7 → (immS (immSField w)).getLsbD (5 + k) = w.getLsbD (25 + k)) ∧
      (∀ k, 12 ≤ k → k < 32 → (immS (immSField w)).getLsbD k = w.getLsbD 31) ∧
      -2048 ≤ (immS (immSField w)).toInt ∧ (immS (immSField w)).toInt ≤ 2047 ∧
      (∀ imm, immSOf (decode w) = some imm → imm = immSField w)) ∧
    ((immB (immBField w)).getLsbD 0 = false ∧
      (∀ k, k < 4 → (immB (immBField w)).getLsbD (1 + k) = w.getLsbD (8 + k)) ∧
      (∀ k, k < 6 → (immB (immBField w)).getLsbD (5 + k) = w.getLsbD (25 + k)) ∧
      (immB (immBField w)).getLsbD 11 = w.getLsbD 7 ∧
      (∀ k, 12 ≤ k → k < 32 → (immB (immBField w)).getLsbD k = w.getLsbD 31) ∧
      -4096 ≤ (immB (immBField w)).toInt ∧ (immB (immBField w)).toInt ≤ 4094 ∧
      (∀ imm, immBOf (decode w) = some imm → imm = immBField w)) ∧
    ((∀ k, k < 12 → (immU (immUField w)).getLsbD k = false) ∧
      (∀ k, 12 ≤ k → k < 32 → (immU (immUField w)).getLsbD k = w.getLsbD k) ∧
      (∀ imm, immUOf (decode w) = some imm → imm = immUField w)) ∧
    ((immJ (immJField w)).getLsbD 0 = false ∧
      (∀ k, k < 10 → (immJ (immJField w)).getLsbD (1 + k) = w.getLsbD (21 + k)) ∧
      (immJ (immJField w)).getLsbD 11 = w.getLsbD 20 ∧
      (∀ k, k < 8 → (immJ (immJField w)).getLsbD (12 + k) = w.getLsbD (12 + k)) ∧
      (∀ k, 20 ≤ k → k < 32 → (immJ (immJField w)).getLsbD k = w.getLsbD 31) ∧
      -1048576 ≤ (immJ (immJField w)).toInt ∧ (immJ (immJField w)).toInt ≤ 1048574 ∧
      (∀ imm, immJOf (decode w) = some imm → imm = immJField w))

/-! ## Registers -/

/-- R21: `x0` reads 0 in every state. A write to `x0` changes no register read, and a write to another register
shows there and nowhere else. -/
def Obligations.RegisterFileReadsBackWritesExceptX0 : Prop :=
  ∀ (s : State) (r q : RegIdx) (v : Word),
    s.readReg 0#5 = 0#32 ∧
      (s.writeReg r v).readReg q = (if r = 0#5 then s.readReg q else if q = r then v else s.readReg q)

/-! ## Upper immediates and control transfer -/

/-- R150, R151: encoding, value, pc and frame of LUI and AUIPC. -/
def Obligations.LuiAndAuipcResults : Prop :=
  ∀ (s : State) (rd : RegIdx) (imm : BitVec 20),
    decode (imm ++ rd ++ 0b0110111#7) = .lui rd imm ∧ decode (imm ++ rd ++ 0b0010111#7) = .auipc rd imm ∧
      Computes (.lui rd imm) s rd (fun v => v.toNat = 4096 * imm.toNat) ∧
      Computes (.auipc rd imm) s rd (fun v => v = BitVec.ofNat 32 (s.pc.toNat + 4096 * imm.toNat))

/-- R160: encoding, target, link and frame of JAL. Its word with `rd = x0` and offset 0 is the halt word, which has
a row of its own and the same effect; that this word decodes to `halt`, where R115 and R120 call it `JAL x0, 0`, is
the model's choice (DESIGN CHOICE, log 4). -/
def Obligations.JalLinksAndJumps : Prop :=
  ∀ (s : State) (rd : RegIdx) (imm : BitVec 21),
    (imm.getLsbD 0 = false → ¬ (rd = 0#5 ∧ imm = 0#21) →
      decode (imm.extractLsb' 20 1 ++ imm.extractLsb' 1 10 ++ imm.extractLsb' 11 1 ++ imm.extractLsb' 12 8 ++ rd ++
        0b1101111#7) = .jal rd imm) ∧
      decode 0x0000006F#32 = .halt ∧ exec .halt s = exec (.jal 0#5 0#21) s ∧
      ∃ t, exec (.jal rd imm) s = .next t ∧ WroteReg s t rd (s.pc + 4#32) ∧
        t.pc = BitVec.ofInt 32 (s.pc.toNat + imm.toInt)

/-- R162: encoding, target (the sum modulo 2^32, then bit 0 cleared, from the old `x[rs1]`), link and frame of
JALR; with another funct3 the word is unimplemented. The funct3 number stands in the rule itself (log 3). -/
def Obligations.JalrLinksAndJumps : Prop :=
  ∀ (s : State) (rd rs1 : RegIdx) (imm : BitVec 12) (f3 : BitVec 3),
    decode (imm ++ rs1 ++ 0b000#3 ++ rd ++ 0b1100111#7) = .jalr rd rs1 imm ∧
      (f3 ≠ 0b000#3 → decode (imm ++ rs1 ++ f3 ++ rd ++ 0b1100111#7) =
        .unimplemented (imm ++ rs1 ++ f3 ++ rd ++ 0b1100111#7)) ∧
      ∃ t, exec (.jalr rd rs1 imm) s = .next t ∧ WroteReg s t rd (s.pc + 4#32) ∧
        t.pc = BitVec.ofInt 32 (2 * (((s.readReg rs1).toNat + imm.toInt) / 2))

/-- R112: the halt word executes as a jump to itself: `pc` stays at the same address and nothing else changes. That
the word decodes to `halt`, where R115 and R120 call it `JAL x0, 0`, is the model's choice (DESIGN CHOICE, log 4). -/
def Obligations.HaltWordJumpsToItself : Prop :=
  ∀ s : State, decode 0x0000006F#32 = .halt ∧
    ∃ t, exec .halt s = .next t ∧ t.pc = s.pc ∧ SameRegs s t ∧ SameMem s t ∧ SameControl s t ∧ SameOutputs s t

/-- R164 to R170: encoding, condition, target and frame of the six branches; funct3 010 and 011 are unimplemented.
The funct3 numbers stand in the rules themselves (log 3). -/
def Obligations.BranchesGoWhereTheConditionSays : Prop :=
  ∀ (s : State) (rs1 rs2 : RegIdx) (imm : BitVec 13),
    (imm.getLsbD 0 = false → ∀ f3 : BitVec 3,
      decode (imm.extractLsb' 12 1 ++ imm.extractLsb' 5 6 ++ rs2 ++ rs1 ++ f3 ++ imm.extractLsb' 1 4 ++
        imm.extractLsb' 11 1 ++ 0b1100011#7) =
        (if f3 = 0b000#3 then .beq rs1 rs2 imm
         else if f3 = 0b001#3 then .bne rs1 rs2 imm
         else if f3 = 0b100#3 then .blt rs1 rs2 imm
         else if f3 = 0b101#3 then .bge rs1 rs2 imm
         else if f3 = 0b110#3 then .bltu rs1 rs2 imm
         else if f3 = 0b111#3 then .bgeu rs1 rs2 imm
         else .unimplemented (imm.extractLsb' 12 1 ++ imm.extractLsb' 5 6 ++ rs2 ++ rs1 ++ f3 ++
           imm.extractLsb' 1 4 ++ imm.extractLsb' 11 1 ++ 0b1100011#7))) ∧
      Branches (.beq rs1 rs2 imm) s imm (s.readReg rs1 = s.readReg rs2) ∧
      Branches (.bne rs1 rs2 imm) s imm (s.readReg rs1 ≠ s.readReg rs2) ∧
      Branches (.blt rs1 rs2 imm) s imm ((s.readReg rs1).toInt < (s.readReg rs2).toInt) ∧
      Branches (.bge rs1 rs2 imm) s imm ((s.readReg rs2).toInt ≤ (s.readReg rs1).toInt) ∧
      Branches (.bltu rs1 rs2 imm) s imm ((s.readReg rs1).toNat < (s.readReg rs2).toNat) ∧
      Branches (.bgeu rs1 rs2 imm) s imm ((s.readReg rs2).toNat ≤ (s.readReg rs1).toNat)

/-! ## Loads and stores -/

/-- R180: a load's and a store's effective address is `x[rs1]` plus the sign-extended immediate, modulo 2^32. -/
def Obligations.EffectiveAddressIsBasePlusDisplacement : Prop :=
  ∀ (s : State) (rs1 : RegIdx) (imm : BitVec 12),
    s.loadAddr rs1 imm = BitVec.ofInt 32 ((s.readReg rs1).toNat + imm.toInt) ∧
      s.storeAddr rs1 imm = BitVec.ofInt 32 ((s.readReg rs1).toNat + imm.toInt)

/-- R60: `Align` clears the low bits, and so goes down to the multiple of the width below. -/
def Obligations.AlignClearsTheLowBits : Prop :=
  ∀ a : Word,
    align .byte a = a ∧ align .half a = a &&& 0xFFFFFFFE#32 ∧ align .word a = a &&& 0xFFFFFFFC#32 ∧
      ∀ w : Width, (align w a).toNat = a.toNat / w.bytes * w.bytes

/-- R181 to R185: encoding, value, pc and frame of the five loads, through the aligned address: the bytes there in
storage, 0 elsewhere, sign- or zero-extended. The funct3 numbers stand in the rules themselves (log 3). That an LW at
MEM_SIZE-3 to MEM_SIZE-1 reads the store's last word, as R183's pseudocode says, and not 0, as its corner cases say,
is the model's choice (DESIGN CHOICE, log 31). -/
def Obligations.LoadResults : Prop :=
  ∀ (s : State) (rd rs1 : RegIdx) (imm : BitVec 12),
    decode (imm ++ rs1 ++ 0b000#3 ++ rd ++ 0b0000011#7) = .lb rd rs1 imm ∧
      decode (imm ++ rs1 ++ 0b001#3 ++ rd ++ 0b0000011#7) = .lh rd rs1 imm ∧
      decode (imm ++ rs1 ++ 0b010#3 ++ rd ++ 0b0000011#7) = .lw rd rs1 imm ∧
      decode (imm ++ rs1 ++ 0b100#3 ++ rd ++ 0b0000011#7) = .lbu rd rs1 imm ∧
      decode (imm ++ rs1 ++ 0b101#3 ++ rd ++ 0b0000011#7) = .lhu rd rs1 imm ∧
      Computes (.lb rd rs1 imm) s rd (fun v =>
        v.toInt = (loaded s (align .byte (s.loadAddr rs1 imm)) 1 : Int).bmod (2 ^ 8)) ∧
      Computes (.lh rd rs1 imm) s rd (fun v =>
        v.toInt = (loaded s (align .half (s.loadAddr rs1 imm)) 2 : Int).bmod (2 ^ 16)) ∧
      Computes (.lw rd rs1 imm) s rd (fun v => v.toNat = loaded s (align .word (s.loadAddr rs1 imm)) 4) ∧
      Computes (.lbu rd rs1 imm) s rd (fun v => v.toNat = loaded s (align .byte (s.loadAddr rs1 imm)) 1) ∧
      Computes (.lhu rd rs1 imm) s rd (fun v => v.toNat = loaded s (align .half (s.loadAddr rs1 imm)) 2)

/-- R186 to R188: encoding, stored bytes, emitted byte and frame of the three stores, over memories in canonical
form (which every step keeps: `EveryStepKeepsTheInvariant`). The funct3 numbers stand in the rules themselves
(log 3). -/
def Obligations.StoreEffects : Prop :=
  ∀ (s : State) (rs1 rs2 : RegIdx) (imm : BitVec 12), s.mem.wf →
    decode (imm.extractLsb' 5 7 ++ rs2 ++ rs1 ++ 0b000#3 ++ imm.extractLsb' 0 5 ++ 0b0100011#7) = .sb rs1 rs2 imm ∧
      decode (imm.extractLsb' 5 7 ++ rs2 ++ rs1 ++ 0b001#3 ++ imm.extractLsb' 0 5 ++ 0b0100011#7) =
        .sh rs1 rs2 imm ∧
      decode (imm.extractLsb' 5 7 ++ rs2 ++ rs1 ++ 0b010#3 ++ imm.extractLsb' 0 5 ++ 0b0100011#7) =
        .sw rs1 rs2 imm ∧
      Stores (.sb rs1 rs2 imm) s .byte (align .byte (s.storeAddr rs1 imm)) (s.readReg rs2) ∧
      Stores (.sh rs1 rs2 imm) s .half (align .half (s.storeAddr rs1 imm)) (s.readReg rs2) ∧
      Stores (.sw rs1 rs2 imm) s .word (align .word (s.storeAddr rs1 imm)) (s.readReg rs2)

/-! ## The router -/

/-- R50's table for any machine whose parameters meet R10. That OOR is tested first and by `a + 3`, and that the
store goes on above `0x9FFFF`, are the spec's own decisions (D5, D7). -/
def Obligations.RegionsPartitionTheAddressSpace : Prop :=
  ∀ (s : State) (a : Word), s.config.wf →
    (s.region a = .ram ↔ a.toNat ≤ 0x7FFFF) ∧
      (s.region a = .vram ↔ 0x80000 ≤ a.toNat ∧ a.toNat ≤ 0x8FFFF) ∧
      (s.region a = .exp ↔ 0x90000 ≤ a.toNat ∧ a.toNat ≤ 0x9FBFF) ∧
      (s.region a = .io ↔ 0x9FC00 ≤ a.toNat ∧ a.toNat ≤ 0x9FFFF ∧ a.toNat + 3 < s.config.memSize) ∧
      (s.region a = .upper ↔ 0xA0000 ≤ a.toNat ∧ a.toNat + 3 < s.config.memSize) ∧
      (s.region a = .oor ↔ s.config.memSize ≤ a.toNat + 3)

/-- R55, R56, R57: storage reads the four bytes little-endian and a write sets exactly them; OOR and EXP read 0 and a
write changes nothing and reports nothing; IO goes to the peripheral. -/
def Obligations.BusTransactionsGoByRegion : Prop :=
  ∀ (s : State) (a v : Word), s.mem.wf →
    ((s.region a).isStorage = true →
      (s.busRead a).toNat = leValue s.mem a.toNat 4 ∧
        s.busWrite a v = { s with mem := (s.busWrite a v).mem } ∧
        (∀ k, k < 4 → (s.busWrite a v).mem.read (a.toNat + k) = byteOfWord v k) ∧
        (∀ b, ¬ (a.toNat ≤ b ∧ b < a.toNat + 4) → (s.busWrite a v).mem.read b = s.mem.read b)) ∧
      (s.region a = .oor ∨ s.region a = .exp → s.busRead a = 0#32 ∧ s.busWrite a v = s) ∧
      (s.region a = .io → s.busRead a = periphRead a ∧ s.busRead a = 0#32 ∧ s.busWrite a v = s.periphWrite a v)

/-- R58 and R70 through the bus: every IO address reads 0; a write emits its low byte at SERIAL_ADDR exactly and does
nothing elsewhere. That every IO read is 0 and that the match is exact are the spec's decisions (D28, D10). -/
def Obligations.SerialPeripheralEmitsAtItsAddressOnly : Prop :=
  ∀ (s : State) (a v : Word), s.config.wf → 0x9FC00 ≤ a.toNat → a.toNat ≤ 0x9FFFF → a.toNat + 3 < s.config.memSize →
    s.busRead a = 0#32 ∧
      s.busWrite a v =
        (if a = 0x0009FC00#32 then { s with serialOut := s.serialOut ++ [v.extractLsb' 0 8] } else s)

/-- R75: a word written in RAM, VRAM or UPPER is read back; in EXP, IO and OOR the read returns 0. -/
def Obligations.BusReadAfterWriteRoundTrip : Prop :=
  ∀ (s : State) (a v : Word), s.mem.wf →
    (s.busWrite a v).busRead a =
      (if s.region a = .ram ∨ s.region a = .vram ∨ s.region a = .upper then v else 0#32)

/-- R64: the fetch's address by FETCH_ALIGN (the parameter is the spec's decision D9); the two policies agree at a
multiple of 4; a fetch from EXP, IO or OOR returns 0, so never the IRET word. -/
def Obligations.FetchFollowsFetchAlign : Prop :=
  ∀ (s : State) (p : Word),
    (s.config.fetchAlign = .alignDown → s.fetch p = s.busRead (p &&& 0xFFFFFFFC#32)) ∧
      (s.config.fetchAlign = .unaligned → s.fetch p = s.busRead p) ∧
      (p.toNat % 4 = 0 → s.fetch p = s.busRead p) ∧
      ((s.region (s.fetchAddr p)).isStorage = false → s.fetch p = 0#32 ∧ s.fetch p ≠ 0xFFFFFFFF#32)

/-- R66, for a word whose sub-word transactions stay inside the store. (Its last word is left out: by R59 a halfword
or byte access in the last three bytes is out of range and reads 0; log 12.) -/
def Obligations.AccessWidthsSeeTheSameBytes : Prop :=
  ∀ (s : State) (a : Word), a.toNat % 4 = 0 → a.toNat + 6 < s.config.memSize →
    s.memRead16 a = (s.memRead32 a).extractLsb' 0 16 ∧
      s.memRead16 (a + 2#32) = (s.memRead32 a).extractLsb' 16 16 ∧
      s.memRead8 a = (s.memRead32 a).extractLsb' 0 8 ∧
      s.memRead8 (a + 1#32) = (s.memRead32 a).extractLsb' 8 8 ∧
      s.memRead8 (a + 2#32) = (s.memRead32 a).extractLsb' 16 8 ∧
      s.memRead8 (a + 3#32) = (s.memRead32 a).extractLsb' 24 8

/-- R79 (an inference of the spec from R33, R64 and R76; decision D27): the word an SW stores is what the next fetch
from its address reads, with no fence. -/
def Obligations.NextFetchSeesAStoredWord : Prop :=
  ∀ (s t : State) (rs1 rs2 : RegIdx) (imm : BitVec 12), s.mem.wf →
    (s.region (align .word (s.storeAddr rs1 imm))).isStorage = true →
    exec (.sw rs1 rs2 imm) s = .next t →
      t.fetch (align .word (s.storeAddr rs1 imm)) = s.readReg rs2

/-! ## ALU -/

/-- R200, R201, R203 to R208: encoding, value, pc and frame of the register-immediate instructions but SLTIU, over
exact integers narrowed to 32 bits. The funct3 and funct7 numbers stand in the rules themselves (log 3). -/
def Obligations.AluImmediateResults : Prop :=
  ∀ (s : State) (rd rs1 : RegIdx) (imm : BitVec 12) (sh : BitVec 5),
    decode (imm ++ rs1 ++ 0b000#3 ++ rd ++ 0b0010011#7) = .addi rd rs1 imm ∧
      decode (imm ++ rs1 ++ 0b010#3 ++ rd ++ 0b0010011#7) = .slti rd rs1 imm ∧
      decode (imm ++ rs1 ++ 0b100#3 ++ rd ++ 0b0010011#7) = .xori rd rs1 imm ∧
      decode (imm ++ rs1 ++ 0b110#3 ++ rd ++ 0b0010011#7) = .ori rd rs1 imm ∧
      decode (imm ++ rs1 ++ 0b111#3 ++ rd ++ 0b0010011#7) = .andi rd rs1 imm ∧
      decode (0b0000000#7 ++ sh ++ rs1 ++ 0b001#3 ++ rd ++ 0b0010011#7) = .slli rd rs1 sh ∧
      decode (0b0000000#7 ++ sh ++ rs1 ++ 0b101#3 ++ rd ++ 0b0010011#7) = .srli rd rs1 sh ∧
      decode (0b0100000#7 ++ sh ++ rs1 ++ 0b101#3 ++ rd ++ 0b0010011#7) = .srai rd rs1 sh ∧
      Computes (.addi rd rs1 imm) s rd (fun v => v = BitVec.ofInt 32 ((s.readReg rs1).toInt + imm.toInt)) ∧
      Computes (.slti rd rs1 imm) s rd (fun v =>
        v = if (s.readReg rs1).toInt < imm.toInt then 1#32 else 0#32) ∧
      Computes (.xori rd rs1 imm) s rd (fun v =>
        ∀ k, k < 32 → v.getLsbD k = ((s.readReg rs1).getLsbD k != imm.getLsbD (min k 11))) ∧
      Computes (.ori rd rs1 imm) s rd (fun v =>
        ∀ k, k < 32 → v.getLsbD k = ((s.readReg rs1).getLsbD k || imm.getLsbD (min k 11))) ∧
      Computes (.andi rd rs1 imm) s rd (fun v =>
        ∀ k, k < 32 → v.getLsbD k = ((s.readReg rs1).getLsbD k && imm.getLsbD (min k 11))) ∧
      Computes (.slli rd rs1 sh) s rd (fun v => v.toNat = (s.readReg rs1).toNat * 2 ^ sh.toNat % 2 ^ 32) ∧
      Computes (.srli rd rs1 sh) s rd (fun v => v.toNat = (s.readReg rs1).toNat / 2 ^ sh.toNat) ∧
      Computes (.srai rd rs1 sh) s rd (fun v => v.toInt = (s.readReg rs1).toInt / 2 ^ sh.toNat)

/-- R202: encoding, value, pc and frame of SLTIU. That the immediate is sign-extended before the unsigned comparison
is the spec's own inference (from R104). -/
def Obligations.SltiuComparesTheExtendedImmediateUnsigned : Prop :=
  ∀ (s : State) (rd rs1 : RegIdx) (imm : BitVec 12),
    decode (imm ++ rs1 ++ 0b011#3 ++ rd ++ 0b0010011#7) = .sltiu rd rs1 imm ∧
      Computes (.sltiu rd rs1 imm) s rd (fun v =>
        v = if ((s.readReg rs1).toNat : Int) < imm.toInt % 2 ^ 32 then 1#32 else 0#32)

/-- R220 to R229: encoding, value, pc and frame of the register-register instructions, over exact integers narrowed
to 32 bits; shift amounts are the low 5 bits of `x[rs2]`. The funct3 and funct7 numbers stand in the rules themselves
(log 3). -/
def Obligations.AluRegisterResults : Prop :=
  ∀ (s : State) (rd rs1 rs2 : RegIdx),
    decode (0b0000000#7 ++ rs2 ++ rs1 ++ 0b000#3 ++ rd ++ 0b0110011#7) = .add rd rs1 rs2 ∧
      decode (0b0100000#7 ++ rs2 ++ rs1 ++ 0b000#3 ++ rd ++ 0b0110011#7) = .sub rd rs1 rs2 ∧
      decode (0b0000000#7 ++ rs2 ++ rs1 ++ 0b001#3 ++ rd ++ 0b0110011#7) = .sll rd rs1 rs2 ∧
      decode (0b0000000#7 ++ rs2 ++ rs1 ++ 0b010#3 ++ rd ++ 0b0110011#7) = .slt rd rs1 rs2 ∧
      decode (0b0000000#7 ++ rs2 ++ rs1 ++ 0b011#3 ++ rd ++ 0b0110011#7) = .sltu rd rs1 rs2 ∧
      decode (0b0000000#7 ++ rs2 ++ rs1 ++ 0b100#3 ++ rd ++ 0b0110011#7) = .xor rd rs1 rs2 ∧
      decode (0b0000000#7 ++ rs2 ++ rs1 ++ 0b101#3 ++ rd ++ 0b0110011#7) = .srl rd rs1 rs2 ∧
      decode (0b0100000#7 ++ rs2 ++ rs1 ++ 0b101#3 ++ rd ++ 0b0110011#7) = .sra rd rs1 rs2 ∧
      decode (0b0000000#7 ++ rs2 ++ rs1 ++ 0b110#3 ++ rd ++ 0b0110011#7) = .or rd rs1 rs2 ∧
      decode (0b0000000#7 ++ rs2 ++ rs1 ++ 0b111#3 ++ rd ++ 0b0110011#7) = .and rd rs1 rs2 ∧
      Computes (.add rd rs1 rs2) s rd (fun v =>
        v = BitVec.ofInt 32 ((s.readReg rs1).toInt + (s.readReg rs2).toInt)) ∧
      Computes (.sub rd rs1 rs2) s rd (fun v =>
        v = BitVec.ofInt 32 ((s.readReg rs1).toInt - (s.readReg rs2).toInt)) ∧
      Computes (.sll rd rs1 rs2) s rd (fun v =>
        v.toNat = (s.readReg rs1).toNat * 2 ^ ((s.readReg rs2).toNat % 32) % 2 ^ 32) ∧
      Computes (.slt rd rs1 rs2) s rd (fun v =>
        v = if (s.readReg rs1).toInt < (s.readReg rs2).toInt then 1#32 else 0#32) ∧
      Computes (.sltu rd rs1 rs2) s rd (fun v =>
        v = if (s.readReg rs1).toNat < (s.readReg rs2).toNat then 1#32 else 0#32) ∧
      Computes (.xor rd rs1 rs2) s rd (fun v =>
        ∀ k, k < 32 → v.getLsbD k = ((s.readReg rs1).getLsbD k != (s.readReg rs2).getLsbD k)) ∧
      Computes (.srl rd rs1 rs2) s rd (fun v =>
        v.toNat = (s.readReg rs1).toNat / 2 ^ ((s.readReg rs2).toNat % 32)) ∧
      Computes (.sra rd rs1 rs2) s rd (fun v =>
        v.toInt = (s.readReg rs1).toInt / 2 ^ ((s.readReg rs2).toNat % 32)) ∧
      Computes (.or rd rs1 rs2) s rd (fun v =>
        ∀ k, k < 32 → v.getLsbD k = ((s.readReg rs1).getLsbD k || (s.readReg rs2).getLsbD k)) ∧
      Computes (.and rd rs1 rs2) s rd (fun v =>
        ∀ k, k < 32 → v.getLsbD k = ((s.readReg rs1).getLsbD k && (s.readReg rs2).getLsbD k))

/-! ## Sentinels and unimplemented words -/

/-- R262: IRET restores `pc` from `saved_return_address` and changes nothing else, in `exec` and in the whole step
(no x0 reset, no count, no report); its word can only be fetched from storage. That the step does not count it is
the spec's reading D18. -/
def Obligations.IretRestoresThePcOnly : Prop :=
  ∀ s : State,
    decode 0xFFFFFFFF#32 = .iret ∧ exec .iret s = .next { s with pc := s.savedReturnAddress } ∧
      (s.pending = false → s.fetch s.pc = 0xFFFFFFFF#32 →
        step s = .next { s with pc := s.savedReturnAddress } ∧
          (s.region (s.fetchAddr s.pc) = .ram ∨ s.region (s.fetchAddr s.pc) = .vram ∨
            s.region (s.fetchAddr s.pc) = .upper))

/-- R240: every unimplemented word, the four standard ones with rows of their own (R241, log 5) among them, reports
its address and word once, advances the pc and changes nothing else; its step is counted. -/
def Obligations.UnimplementedWordsAreReportedNoOps : Prop :=
  ∀ (s : State) (rd rs1 : RegIdx) (imm : BitVec 12) (word : Word),
    Skips (.fence rd rs1 imm) s (imm ++ rs1 ++ 0b000#3 ++ rd ++ 0b0001111#7) ∧
      Skips (.fencei rd rs1 imm) s (imm ++ rs1 ++ 0b001#3 ++ rd ++ 0b0001111#7) ∧
      Skips .ecall s 0x00000073#32 ∧ Skips .ebreak s 0x00100073#32 ∧ Skips (.unimplemented word) s word ∧
      isCounted (.fence rd rs1 imm) = true ∧ isCounted (.fencei rd rs1 imm) = true ∧ isCounted .ecall = true ∧
      isCounted .ebreak = true ∧ isCounted (.unimplemented word) = true

/-! ## The step -/

/-- The pseudocode of R130 with R131, R137 and R256: the step is phase 1, the fetch and decode at the pc it leaves,
`exec` of that instruction, and, but for IRET, the x0 reset and interrupt scheduling. What is counted and the restart
at the threshold (R138, R255) are the spec's decision D14, that IRET's step ends without either (R134) is its decision
D18 (log 11); that `exec` is given `pc = ipc` is the model's choice (DESIGN CHOICE, log 6). -/
def Obligations.StepRunsTheDecodedInstruction : Prop :=
  ∀ (s t : State) (i : Instr),
    decode ((afterCheck s).fetch (afterCheck s).pc) = i → exec i (afterCheck s) = .next t →
      step s = .next
        (if i = .iret then t
         else if t.icount + 1 = t.config.irqThreshold then
           { t with regs := t.regs.set 0 0#32, pending := true, icount := 0 }
         else { t with regs := t.regs.set 0 0#32, icount := t.icount + 1 })

/-- R132: every step has a next state, from every state whatever. -/
def Obligations.EveryStepHasANextState : Prop :=
  ∀ s : State, ∃ t, step s = .next t

/-- R38's reset values. Those of `pending`, `saved_return_address`, `icount` and the streams are the spec's decision
D16 (log 10); the parameters are R10's defaults (log 1), the handler address is left open (log 2). That every byte of
memory reads 0 is the default INIT_MEM, the model's choice for an unlisted byte (DESIGN CHOICE, log 9). -/
def Obligations.ResetLeavesTheStatedValues : Prop :=
  (∀ r, State.reset.readReg r = 0#32) ∧ State.reset.regs[0] = 0#32 ∧ State.reset.pc = 0x00000000#32 ∧
    State.reset.pending = false ∧ State.reset.savedReturnAddress = 0x00000000#32 ∧ State.reset.icount = 0 ∧
    (∀ a, State.reset.mem.read a = 0#8) ∧ State.reset.serialOut = [] ∧ State.reset.diagOut = [] ∧
    State.reset.config.memSize = 0x100000 ∧ State.reset.config.irqThreshold = 1000 ∧
    State.reset.config.fetchAlign = .alignDown

/-- The reset state, of the default machine and of any machine with well-formed parameters and a canonical initial
image inside the store, meets the invariant (`State.Inv`, the model's own). -/
def Obligations.ResetMeetsTheInvariant : Prop :=
  State.reset.Inv ∧
    ∀ (c : Config) (image : Memory), c.wf → image.wf → (∀ b ∈ image, b.1 < c.memSize) → (State.init c image).Inv

/-- From every state that meets the invariant a step gives a state that meets it: memory stays canonical and inside
the store, `x0` holds 0, `icount` stays below the threshold, a pending interrupt is fresh (R32, R33, R137, R255). -/
def Obligations.EveryStepKeepsTheInvariant : Prop :=
  ∀ s t : State, s.Inv → step s = .next t → t.Inv

/-- R26 (an inference of the spec): `pc` becomes odd only if HANDLER_ADDRESS is odd. -/
def Obligations.PcStaysEven : Prop :=
  ∀ s t : State, EvenPc s → step s = .next t → EvenPc t

/-- R31, R33: no step changes a parameter: the handler address is fixed and the store is never resized. -/
def Obligations.ParametersNeverChange : Prop :=
  ∀ s t : State, step s = .next t → t.config = s.config

/-- R23: nothing but the executed instruction's `rd` write changes a register; no interrupt, bus access or peripheral
does, and the classes without `rd` change none. -/
def Obligations.OnlyTheDestinationRegisterChanges : Prop :=
  ∀ (s t : State) (r : RegIdx), step s = .next t → t.readReg r ≠ s.readReg r →
    destOf (stepInstr s) = some r ∧ r ≠ 0#5

/-- R67, R70: whatever a step executes, memory and `serial_out` change only by the store it executes, as R74 says:
in storage exactly the stored bytes, at SERIAL_ADDR one byte emitted. -/
def Obligations.OnlyStoresReachMemoryAndSerial : Prop :=
  ∀ s t : State, s.mem.wf → step s = .next t →
    match storeOf (afterCheck s) (stepInstr s) with
    | none => (∀ b, t.mem.read b = s.mem.read b) ∧ t.serialOut = s.serialOut
    | some (w, a, v) =>
      (∀ b, t.mem.read b =
        if (s.region a).isStorage = true ∧ a.toNat ≤ b ∧ b < a.toNat + w.bytes then byteOfWord v (b - a.toNat)
        else s.mem.read b) ∧
      t.serialOut = s.serialOut ++ (if s.region a = .io ∧ a = 0x0009FC00#32 then [byteOfWord v 0] else [])

/-- R252, R253: a step appends one event, with the instruction's address and word, exactly when it executes an
unimplemented word; no other step reports anything. The event's content is the spec's decision D21 (log 15). -/
def Obligations.DiagnosticsRecordUnimplementedWords : Prop :=
  ∀ s t : State, step s = .next t →
    t.diagOut = s.diagOut ++
      (if isUnimplemented (stepInstr s) = true then
        [⟨.unimplementedOperation, (afterCheck s).pc, (afterCheck s).fetch (afterCheck s).pc⟩] else [])

/-- R29, R30, R32, R255: who writes the interrupt state. `saved_return_address` is written only by the interrupt
check, with the pc at diversion; `pending` is cleared by the check and set by the scheduling; `icount` counts every
step but IRET's (D14, D18; log 11). -/
def Obligations.InterruptStateIsWrittenByCheckAndScheduling : Prop :=
  ∀ s t : State, step s = .next t →
    t.savedReturnAddress = (if s.pending = true then s.pc else s.savedReturnAddress) ∧
      (t.pending = true ↔ stepInstr s ≠ .iret ∧ s.icount + 1 = s.config.irqThreshold) ∧
      t.icount = (if stepInstr s = .iret then s.icount
        else if s.icount + 1 = s.config.irqThreshold then 0 else s.icount + 1)

/-- R30: `saved_return_address` is written only by the interrupt check, with the pc at diversion, and read only by
IRET: a step that executes anything else does the same whatever it holds. -/
def Obligations.OnlyIretReadsTheSavedReturnAddress : Prop :=
  ∀ (s t : State) (v : Word), step s = .next t →
    t.savedReturnAddress = (if s.pending = true then s.pc else s.savedReturnAddress) ∧
      (stepInstr s ≠ .iret →
        step { s with savedReturnAddress := v } =
          .next { t with savedReturnAddress := if s.pending = true then s.pc else v })

/-- R36, and R35's stream likewise: no step reads what the output streams hold. -/
def Obligations.OutputStreamsAreNeverRead : Prop :=
  ∀ (s t : State) (bytes : List Byte) (events : List DiagEvent), step s = .next t →
    step { s with serialOut := bytes ++ s.serialOut, diagOut := events ++ s.diagOut } =
      .next { t with serialOut := bytes ++ t.serialOut, diagOut := events ++ t.diagOut }

/-- R34, first sentence: no step changes a byte of `mem` inside EXP or IO. -/
def Obligations.ExpansionAndIoBytesNeverChange : Prop :=
  ∀ (s t : State) (a : Nat), s.mem.wf → step s = .next t → 0x90000 ≤ a → a ≤ 0x9FFFF →
    t.mem.read a = s.mem.read a

/-- R34 and R74 (inferences of the spec): with FETCH_ALIGN = align_down, nothing the core computes depends on the
bytes of `mem` inside EXP and IO. -/
def Obligations.ExpansionAndIoBytesNeverMatter : Prop :=
  ∀ s s' t t' : State, s.mem.wf → s'.mem.wf → s.config.fetchAlign = .alignDown → AgreeOutsideExpAndIo s s' →
    step s = .next t → step s' = .next t' → AgreeOutsideExpAndIo t t'

/-! ## The interrupt -/

/-- R255, R263 (what is counted and that the count restarts are the spec's decision D14; log 11): from any state with
`icount` 0, after fewer counted steps than the threshold no interrupt is pending and the count is their number; after
exactly the threshold it is pending and the count is 0, and the next step fetches at the handler and saves the pc. -/
def Obligations.InterruptComesAfterThresholdCountedSteps : Prop :=
  ∀ (n : Nat) (s t : State), s.icount = 0 → 1 ≤ n → n ≤ s.config.irqThreshold → ReachesCounted n s t →
    (n < s.config.irqThreshold → t.pending = false ∧ t.icount = n) ∧
      (n = s.config.irqThreshold → t.pending = true ∧ t.icount = 0 ∧
        stepInstr t = decode (t.fetch s.config.handlerAddress) ∧
        ∀ u, step t = .next u → u.savedReturnAddress = t.pc)

/-- R261, R263 (inferences of the spec): a handler that runs fewer counted steps than the threshold and then executes
IRET returns to the pc that was interrupted. -/
def Obligations.ShortHandlerReturnsToTheInterruptedPc : Prop :=
  ∀ (n : Nat) (s u v : State), s.pending = true → s.icount = 0 → ReachesCounted (n + 1) s u →
    n + 1 < s.config.irqThreshold → stepInstr u = .iret → step u = .next v → v.pc = s.pc

/-- R260, item 2 (an inference of the spec): if the word at the handler is itself IRET, a diverted step leaves `pc`
as it was; it only clears the flag and saves the pc. -/
def Obligations.IretAtTheHandlerUndoesTheDiversion : Prop :=
  ∀ s : State, s.pending = true → s.fetch s.config.handlerAddress = 0xFFFFFFFF#32 →
    step s = .next { s with savedReturnAddress := s.pc, pending := false }

/-! ## Runs -/

/-- R288 (the run function is the spec's decision D22): a run that halts stands at the halt word, reached by steps
none of which started at it; one that runs out of steps made exactly `budget` of them. -/
def Obligations.RunsStopOnlyAtTheHaltWordOrTheBudget : Prop :=
  ∀ (budget : Nat) (s t : State) (e : RunEnd), run budget s = .next (t, e) →
    (e = .halted → t.fetch t.pc = 0x0000006F#32 ∧ ∃ n, n ≤ budget ∧ Reaches n s t ∧
      ∀ m u, m < n → Reaches m s u → u.fetch u.pc ≠ 0x0000006F#32) ∧
      (e = .outOfSteps → t.fetch t.pc ≠ 0x0000006F#32 ∧ Reaches budget s t)

/-- R289 (an inference of the spec from R130): a run that was stopped goes on exactly as if it had not been. -/
def Obligations.StoppedRunsResumeUnchanged : Prop :=
  ∀ (m n : Nat) (s t : State), run m s = .next (t, .outOfSteps) → run (m + n) s = run n t

/-! ## The interface -/

/-- The next step of `s.withFetchWord 32 w` executes exactly the word `w`, for every machine with well-formed
parameters and every canonical memory (the model's own placement, log 8). -/
def Obligations.WithFetchWordIsWhatTheNextStepExecutes : Prop :=
  ∀ (s : State) (w : Word), s.config.wf → s.mem.wf → stepInstr (s.withFetchWord 32 w.toNat) = decode w
end

