-- ==== Sys2Proof/Laws/Memory.lean ====
section
/-! SUPPORT. The laws of the backing store: read after write, the canonical form, bytes and words. -/

namespace Sys2Proof.Machine

/-! ## Bytes -/

@[simp] theorem Memory.read_nil (a : Nat) : Memory.read [] a = unlistedByte := rfl

theorem Memory.read_cellFor_append (m : Memory) (a a' : Nat) (b : Byte) (h : ∀ c ∈ m, a < c.1) :
    Memory.read (cellFor a b ++ m) a' = if a' = a then b else m.read a' := by
  have gone : Memory.read m a = unlistedByte := by
    induction m with
    | nil => rfl
    | cons c m ih =>
      have hc := h c (by simp)
      simp only [Memory.read, if_neg (Nat.ne_of_gt hc)]
      exact ih (fun d hd => h d (by simp [hd]))
  unfold cellFor
  by_cases hb : b = unlistedByte
  · by_cases ha : a' = a
    · simp [hb, ha, gone]
    · simp [hb, ha]
  · by_cases ha : a' = a
    · simp [hb, ha, Memory.read]
    · simp [hb, ha, Memory.read, Ne.symm ha]

/-- Reading after a write of one byte (needs the addresses in rising order). -/
theorem Memory.read_write {m : Memory} (h : m.Pairwise (fun c d => c.1 < d.1)) (a a' : Nat) (b : Byte) :
    (m.write a b).read a' = if a' = a then b else m.read a' := by
  induction m with
  | nil => simpa [Memory.write] using Memory.read_cellFor_append [] a a' b (by simp)
  | cons c m ih =>
    obtain ⟨k, d⟩ := c
    obtain ⟨hk, hm⟩ := List.pairwise_cons.mp h
    unfold Memory.write
    split
    · rename_i hlt
      refine Memory.read_cellFor_append _ a a' b ?_
      intro c hc
      rcases List.mem_cons.mp hc with rfl | hc
      · exact hlt
      · exact Nat.lt_trans hlt (hk c hc)
    · split
      · rename_i heq
        subst heq
        rw [Memory.read_cellFor_append m a a' b (fun c hc => hk c hc)]
        by_cases ha : a' = a
        · simp [ha]
        · simp [ha, Memory.read, Ne.symm ha]
      · rename_i hne
        by_cases hk' : k = a'
        · have : a' ≠ a := by omega
          simp [Memory.read, hk', this]
        · simp [Memory.read, hk', ih hm]

theorem mem_cellFor {a : Nat} {b : Byte} {c : Host.Cell} (h : c ∈ cellFor a b) :
    c = (a, b) ∧ b ≠ unlistedByte := by
  unfold cellFor at h
  split at h
  · simp at h
  · exact ⟨by simpa using h, ‹_›⟩

/-- The cells after a write are those before, or the one written. -/
theorem Memory.mem_write {m : Memory} {a : Nat} {b : Byte} {c : Host.Cell} (h : c ∈ m.write a b) :
    c ∈ m ∨ (c = (a, b) ∧ b ≠ unlistedByte) := by
  induction m with
  | nil => exact Or.inr (mem_cellFor h)
  | cons d m ih =>
    obtain ⟨k, e⟩ := d
    unfold Memory.write at h
    split at h
    · rcases List.mem_append.mp h with h | h
      · exact Or.inr (mem_cellFor h)
      · exact Or.inl h
    · split at h
      · rcases List.mem_append.mp h with h | h
        · exact Or.inr (mem_cellFor h)
        · exact Or.inl (List.mem_cons_of_mem _ h)
      · rcases List.mem_cons.mp h with h | h
        · exact Or.inl (by simp [h])
        · exact (ih h).imp_left (List.mem_cons_of_mem _)

theorem pairwise_cellFor_append {m : Memory} {a : Nat} (b : Byte) (hm : m.Pairwise (fun c d => c.1 < d.1))
    (h : ∀ c ∈ m, a < c.1) : (cellFor a b ++ m).Pairwise (fun c d => c.1 < d.1) := by
  unfold cellFor
  split
  · simpa using hm
  · simpa using ⟨fun x y hxy => h (x, y) hxy, hm⟩

theorem Memory.write_pairwise {m : Memory} (hm : m.Pairwise (fun c d => c.1 < d.1)) (a : Nat) (b : Byte) :
    (m.write a b).Pairwise (fun c d => c.1 < d.1) := by
  induction m with
  | nil => simpa [Memory.write] using pairwise_cellFor_append (m := []) (a := a) b List.Pairwise.nil (by simp)
  | cons d m ih =>
    obtain ⟨k, e⟩ := d
    obtain ⟨hk, hm'⟩ := List.pairwise_cons.mp hm
    unfold Memory.write
    split
    · rename_i hlt
      refine pairwise_cellFor_append b hm ?_
      intro c hc
      rcases List.mem_cons.mp hc with rfl | hc
      · exact hlt
      · exact Nat.lt_trans hlt (hk c hc)
    · split
      · rename_i heq
        exact pairwise_cellFor_append b hm' (fun c hc => heq ▸ hk c hc)
      · rename_i h1 h2
        refine List.pairwise_cons.mpr ⟨?_, ih hm'⟩
        intro c hc
        rcases Memory.mem_write hc with hc | ⟨rfl, -⟩
        · exact hk c hc
        · show k < a; omega

/-- A write of one byte keeps the canonical form. -/
theorem Memory.write_wf {m : Memory} (h : m.wf) (a : Nat) (b : Byte) : (m.write a b).wf := by
  refine ⟨Memory.write_pairwise h.1 a b, fun c hc => ?_⟩
  rcases Memory.mem_write hc with hc | ⟨rfl, hb⟩
  · exact h.2 c hc
  · exact hb

/-- Where no cell is listed, the unlisted byte is read. -/
theorem Memory.read_of_not_listed {m : Memory} {a : Nat} (h : ∀ c ∈ m, c.1 ≠ a) : m.read a = unlistedByte := by
  induction m with
  | nil => rfl
  | cons c m ih =>
    simp only [Memory.read, if_neg (h c (by simp))]
    exact ih (fun d hd => h d (by simp [hd]))

/-- Equal memories are equal data: canonical memories that read alike everywhere are the same list. -/
theorem Memory.ext_of_wf {m n : Memory} (hm : m.wf) (hn : n.wf) (h : ∀ a, m.read a = n.read a) : m = n := by
  induction m generalizing n with
  | nil =>
    cases n with
    | nil => rfl
    | cons d n =>
      have := h d.1
      simp [Memory.read] at this
      exact absurd this.symm (hn.2 d (by simp))
  | cons c m ih =>
    obtain ⟨k, b⟩ := c
    obtain ⟨hk, hm1⟩ := List.pairwise_cons.mp hm.1
    cases n with
    | nil =>
      have := h k
      simp [Memory.read] at this
      exact absurd this (hm.2 (k, b) (by simp))
    | cons d n =>
      obtain ⟨l, e⟩ := d
      obtain ⟨hl, hn1⟩ := List.pairwise_cons.mp hn.1
      have hb : b ≠ unlistedByte := hm.2 (k, b) (by simp)
      have he : e ≠ unlistedByte := hn.2 (l, e) (by simp)
      have hkl : k = l := by
        rcases Nat.lt_trichotomy k l with hlt | heq | hgt
        · have := h k
          rw [show Memory.read ((k, b) :: m) k = b by simp [Memory.read],
            Memory.read_of_not_listed (m := (l, e) :: n)] at this
          · exact absurd this hb
          · intro c hc
            rcases List.mem_cons.mp hc with rfl | hc
            · exact Nat.ne_of_gt hlt
            · exact Nat.ne_of_gt (Nat.lt_trans hlt (hl c hc))
        · exact heq
        · have := h l
          rw [show Memory.read ((l, e) :: n) l = e by simp [Memory.read],
            Memory.read_of_not_listed (m := (k, b) :: m)] at this
          · exact absurd this.symm he
          · intro c hc
            rcases List.mem_cons.mp hc with rfl | hc
            · exact Nat.ne_of_gt hgt
            · exact Nat.ne_of_gt (Nat.lt_trans hgt (hk c hc))
      subst hkl
      have hbe : b = e := by simpa [Memory.read] using h k
      have hmn : m = n := by
        refine ih ⟨hm1, fun c hc => hm.2 c (by simp [hc])⟩ ⟨hn1, fun c hc => hn.2 c (by simp [hc])⟩ fun a => ?_
        by_cases ha : k = a
        · subst ha
          rw [Memory.read_of_not_listed (fun c hc => Nat.ne_of_gt (hk c hc)),
            Memory.read_of_not_listed (fun c hc => Nat.ne_of_gt (hl c hc))]
        · simpa [Memory.read, ha] using h a
      rw [hbe, hmn]

/-! ## Words and their bytes (R55, R56) -/

@[simp] theorem wordOfBytes_byteOfWord (v : Word) :
    wordOfBytes (byteOfWord v 0) (byteOfWord v 1) (byteOfWord v 2) (byteOfWord v 3) = v := by
  apply BitVec.eq_of_getLsbD_eq
  intro i hi
  simp only [wordOfBytes, byteOfWord, BitVec.getLsbD_append, BitVec.getLsbD_extractLsb']
  interval_cases i <;> simp

theorem byteOfWord_wordOfBytes (b0 b1 b2 b3 : Byte) :
    byteOfWord (wordOfBytes b0 b1 b2 b3) 0 = b0 ∧ byteOfWord (wordOfBytes b0 b1 b2 b3) 1 = b1 ∧
    byteOfWord (wordOfBytes b0 b1 b2 b3) 2 = b2 ∧ byteOfWord (wordOfBytes b0 b1 b2 b3) 3 = b3 := by
  refine ⟨?_, ?_, ?_, ?_⟩ <;>
  · apply BitVec.eq_of_getLsbD_eq
    intro i hi
    simp only [wordOfBytes, byteOfWord, BitVec.getLsbD_append, BitVec.getLsbD_extractLsb']
    interval_cases i <;> simp

/-- Byte `k` of the word at `a` is the byte at `a + k`. -/
theorem Memory.byteOfWord_readWord (m : Memory) (a k : Nat) (hk : k < 4) :
    byteOfWord (m.readWord a) k = m.read (a + k) := by
  obtain ⟨h0, h1, h2, h3⟩ := byteOfWord_wordOfBytes (m.read a) (m.read (a + 1)) (m.read (a + 2)) (m.read (a + 3))
  unfold Memory.readWord
  interval_cases k
  · exact h0
  · exact h1
  · exact h2
  · exact h3

/-- Reading a byte after a word is written. -/
theorem Memory.read_writeWord {m : Memory} (h : m.Pairwise (fun c d => c.1 < d.1)) (a : Nat) (v : Word) (a' : Nat) :
    (m.writeWord a v).read a' = if a ≤ a' ∧ a' < a + 4 then byteOfWord v (a' - a) else m.read a' := by
  have h0 := Memory.write_pairwise h a (byteOfWord v 0)
  have h1 := Memory.write_pairwise h0 (a + 1) (byteOfWord v 1)
  have h2 := Memory.write_pairwise h1 (a + 2) (byteOfWord v 2)
  unfold Memory.writeWord
  rw [Memory.read_write h2, Memory.read_write h1, Memory.read_write h0, Memory.read_write h]
  by_cases hin : a ≤ a' ∧ a' < a + 4
  · obtain ⟨k, hk, rfl⟩ : ∃ k, k < 4 ∧ a' = a + k := ⟨a' - a, by omega, by omega⟩
    interval_cases k <;> simp
  · rw [if_neg (by omega), if_neg (by omega), if_neg (by omega), if_neg (by omega), if_neg hin]

theorem Memory.writeWord_wf {m : Memory} (h : m.wf) (a : Nat) (v : Word) : (m.writeWord a v).wf :=
  Memory.write_wf (Memory.write_wf (Memory.write_wf (Memory.write_wf h _ _) _ _) _ _) _ _

/-- The cells after a word write are those before or lie in the four bytes written. -/
theorem Memory.mem_writeWord {m : Memory} {a : Nat} {v : Word} {c : Host.Cell} (h : c ∈ m.writeWord a v) :
    c ∈ m ∨ (a ≤ c.1 ∧ c.1 < a + 4) := by
  unfold Memory.writeWord at h
  rcases Memory.mem_write h with h | ⟨rfl, -⟩
  · rcases Memory.mem_write h with h | ⟨rfl, -⟩
    · rcases Memory.mem_write h with h | ⟨rfl, -⟩
      · rcases Memory.mem_write h with h | ⟨rfl, -⟩
        · exact Or.inl h
        · exact Or.inr ⟨by simp, by simp⟩
      · exact Or.inr ⟨by simp, by simp⟩
    · exact Or.inr ⟨by simp, by simp⟩
  · exact Or.inr ⟨by simp, by simp⟩

/-- The word read back is the word written. -/
theorem Memory.readWord_writeWord {m : Memory} (h : m.Pairwise (fun c d => c.1 < d.1)) (a : Nat) (v : Word) :
    (m.writeWord a v).readWord a = v := by
  have e : ∀ k, k < 4 → (m.writeWord a v).read (a + k) = byteOfWord v k := by
    intro k hk
    rw [Memory.read_writeWord h, if_pos (by omega)]
    congr 1; omega
  unfold Memory.readWord
  have e0 := e 0 (by omega)
  rw [Nat.add_zero] at e0
  rw [e0, e 1 (by omega), e 2 (by omega), e 3 (by omega), wordOfBytes_byteOfWord]

end Sys2Proof.Machine
end

