-- ==== Sys2Proof/Laws/State.lean ====
section
/-! SUPPORT. One lemma per field per update of State, and the register file's laws, so that no later proof
unfolds a record update. -/

namespace Sys2Proof.Machine

/-! ## setPc -/

@[simp] theorem State.setPc_config (s : State) (target : Word) : (s.setPc target).config = s.config := rfl
@[simp] theorem State.setPc_regs (s : State) (target : Word) : (s.setPc target).regs = s.regs := rfl
@[simp] theorem State.setPc_pc (s : State) (target : Word) : (s.setPc target).pc = target := rfl
@[simp] theorem State.setPc_pending (s : State) (target : Word) : (s.setPc target).pending = s.pending := rfl
@[simp] theorem State.setPc_savedReturnAddress (s : State) (target : Word) : (s.setPc target).savedReturnAddress = s.savedReturnAddress := rfl
@[simp] theorem State.setPc_icount (s : State) (target : Word) : (s.setPc target).icount = s.icount := rfl
@[simp] theorem State.setPc_mem (s : State) (target : Word) : (s.setPc target).mem = s.mem := rfl
@[simp] theorem State.setPc_serialOut (s : State) (target : Word) : (s.setPc target).serialOut = s.serialOut := rfl
@[simp] theorem State.setPc_diagOut (s : State) (target : Word) : (s.setPc target).diagOut = s.diagOut := rfl

/-! ## advance -/

@[simp] theorem State.advance_config (s : State) : s.advance.config = s.config := rfl
@[simp] theorem State.advance_regs (s : State) : s.advance.regs = s.regs := rfl
@[simp] theorem State.advance_pc (s : State) : s.advance.pc = s.pc + 4#32 := rfl
@[simp] theorem State.advance_pending (s : State) : s.advance.pending = s.pending := rfl
@[simp] theorem State.advance_savedReturnAddress (s : State) : s.advance.savedReturnAddress = s.savedReturnAddress := rfl
@[simp] theorem State.advance_icount (s : State) : s.advance.icount = s.icount := rfl
@[simp] theorem State.advance_mem (s : State) : s.advance.mem = s.mem := rfl
@[simp] theorem State.advance_serialOut (s : State) : s.advance.serialOut = s.serialOut := rfl
@[simp] theorem State.advance_diagOut (s : State) : s.advance.diagOut = s.diagOut := rfl

/-! ## writeReg: only `regs` changes -/

@[simp] theorem State.writeReg_config (s : State) (r : RegIdx) (v : Word) : (s.writeReg r v).config = s.config := by
  unfold State.writeReg; split <;> rfl
@[simp] theorem State.writeReg_pc (s : State) (r : RegIdx) (v : Word) : (s.writeReg r v).pc = s.pc := by
  unfold State.writeReg; split <;> rfl
@[simp] theorem State.writeReg_pending (s : State) (r : RegIdx) (v : Word) : (s.writeReg r v).pending = s.pending := by
  unfold State.writeReg; split <;> rfl
@[simp] theorem State.writeReg_savedReturnAddress (s : State) (r : RegIdx) (v : Word) : (s.writeReg r v).savedReturnAddress = s.savedReturnAddress := by
  unfold State.writeReg; split <;> rfl
@[simp] theorem State.writeReg_icount (s : State) (r : RegIdx) (v : Word) : (s.writeReg r v).icount = s.icount := by
  unfold State.writeReg; split <;> rfl
@[simp] theorem State.writeReg_mem (s : State) (r : RegIdx) (v : Word) : (s.writeReg r v).mem = s.mem := by
  unfold State.writeReg; split <;> rfl
@[simp] theorem State.writeReg_serialOut (s : State) (r : RegIdx) (v : Word) : (s.writeReg r v).serialOut = s.serialOut := by
  unfold State.writeReg; split <;> rfl
@[simp] theorem State.writeReg_diagOut (s : State) (r : RegIdx) (v : Word) : (s.writeReg r v).diagOut = s.diagOut := by
  unfold State.writeReg; split <;> rfl

/-! ## writeResult -/

@[simp] theorem State.writeResult_config (s : State) (rd : RegIdx) (v : Word) : (s.writeResult rd v).config = s.config := by
  simp [State.writeResult]
@[simp] theorem State.writeResult_regs (s : State) (rd : RegIdx) (v : Word) : (s.writeResult rd v).regs = (s.writeReg rd v).regs := by
  simp [State.writeResult]
@[simp] theorem State.writeResult_pc (s : State) (rd : RegIdx) (v : Word) : (s.writeResult rd v).pc = s.pc + 4#32 := by
  simp [State.writeResult]
@[simp] theorem State.writeResult_pending (s : State) (rd : RegIdx) (v : Word) : (s.writeResult rd v).pending = s.pending := by
  simp [State.writeResult]
@[simp] theorem State.writeResult_savedReturnAddress (s : State) (rd : RegIdx) (v : Word) : (s.writeResult rd v).savedReturnAddress = s.savedReturnAddress := by
  simp [State.writeResult]
@[simp] theorem State.writeResult_icount (s : State) (rd : RegIdx) (v : Word) : (s.writeResult rd v).icount = s.icount := by
  simp [State.writeResult]
@[simp] theorem State.writeResult_mem (s : State) (rd : RegIdx) (v : Word) : (s.writeResult rd v).mem = s.mem := by
  simp [State.writeResult]
@[simp] theorem State.writeResult_serialOut (s : State) (rd : RegIdx) (v : Word) : (s.writeResult rd v).serialOut = s.serialOut := by
  simp [State.writeResult]
@[simp] theorem State.writeResult_diagOut (s : State) (rd : RegIdx) (v : Word) : (s.writeResult rd v).diagOut = s.diagOut := by
  simp [State.writeResult]

/-! ## linkAndJump -/

@[simp] theorem State.linkAndJump_config (s : State) (rd : RegIdx) (target : Word) : (s.linkAndJump rd target).config = s.config := by
  simp [State.linkAndJump]
@[simp] theorem State.linkAndJump_regs (s : State) (rd : RegIdx) (target : Word) : (s.linkAndJump rd target).regs = (s.writeReg rd s.nextPc).regs := by
  simp [State.linkAndJump]
@[simp] theorem State.linkAndJump_pc (s : State) (rd : RegIdx) (target : Word) : (s.linkAndJump rd target).pc = target := by
  simp [State.linkAndJump]
@[simp] theorem State.linkAndJump_pending (s : State) (rd : RegIdx) (target : Word) : (s.linkAndJump rd target).pending = s.pending := by
  simp [State.linkAndJump]
@[simp] theorem State.linkAndJump_savedReturnAddress (s : State) (rd : RegIdx) (target : Word) : (s.linkAndJump rd target).savedReturnAddress = s.savedReturnAddress := by
  simp [State.linkAndJump]
@[simp] theorem State.linkAndJump_icount (s : State) (rd : RegIdx) (target : Word) : (s.linkAndJump rd target).icount = s.icount := by
  simp [State.linkAndJump]
@[simp] theorem State.linkAndJump_mem (s : State) (rd : RegIdx) (target : Word) : (s.linkAndJump rd target).mem = s.mem := by
  simp [State.linkAndJump]
@[simp] theorem State.linkAndJump_serialOut (s : State) (rd : RegIdx) (target : Word) : (s.linkAndJump rd target).serialOut = s.serialOut := by
  simp [State.linkAndJump]
@[simp] theorem State.linkAndJump_diagOut (s : State) (rd : RegIdx) (target : Word) : (s.linkAndJump rd target).diagOut = s.diagOut := by
  simp [State.linkAndJump]

/-! ## branch -/

@[simp] theorem State.branch_config (s : State) (cond : Bool) (imm : BitVec 13) : (s.branch cond imm).config = s.config := by
  cases cond <;> simp [State.branch]
@[simp] theorem State.branch_regs (s : State) (cond : Bool) (imm : BitVec 13) : (s.branch cond imm).regs = s.regs := by
  cases cond <;> simp [State.branch]
@[simp] theorem State.branch_pc (s : State) (cond : Bool) (imm : BitVec 13) : (s.branch cond imm).pc = if cond then s.pc + immB imm else s.pc + 4#32 := by
  cases cond <;> simp [State.branch]
@[simp] theorem State.branch_pending (s : State) (cond : Bool) (imm : BitVec 13) : (s.branch cond imm).pending = s.pending := by
  cases cond <;> simp [State.branch]
@[simp] theorem State.branch_savedReturnAddress (s : State) (cond : Bool) (imm : BitVec 13) : (s.branch cond imm).savedReturnAddress = s.savedReturnAddress := by
  cases cond <;> simp [State.branch]
@[simp] theorem State.branch_icount (s : State) (cond : Bool) (imm : BitVec 13) : (s.branch cond imm).icount = s.icount := by
  cases cond <;> simp [State.branch]
@[simp] theorem State.branch_mem (s : State) (cond : Bool) (imm : BitVec 13) : (s.branch cond imm).mem = s.mem := by
  cases cond <;> simp [State.branch]
@[simp] theorem State.branch_serialOut (s : State) (cond : Bool) (imm : BitVec 13) : (s.branch cond imm).serialOut = s.serialOut := by
  cases cond <;> simp [State.branch]
@[simp] theorem State.branch_diagOut (s : State) (cond : Bool) (imm : BitVec 13) : (s.branch cond imm).diagOut = s.diagOut := by
  cases cond <;> simp [State.branch]

/-! ## emit -/

@[simp] theorem State.emit_config (s : State) (b : Byte) : (s.emit b).config = s.config := rfl
@[simp] theorem State.emit_regs (s : State) (b : Byte) : (s.emit b).regs = s.regs := rfl
@[simp] theorem State.emit_pc (s : State) (b : Byte) : (s.emit b).pc = s.pc := rfl
@[simp] theorem State.emit_pending (s : State) (b : Byte) : (s.emit b).pending = s.pending := rfl
@[simp] theorem State.emit_savedReturnAddress (s : State) (b : Byte) : (s.emit b).savedReturnAddress = s.savedReturnAddress := rfl
@[simp] theorem State.emit_icount (s : State) (b : Byte) : (s.emit b).icount = s.icount := rfl
@[simp] theorem State.emit_mem (s : State) (b : Byte) : (s.emit b).mem = s.mem := rfl
@[simp] theorem State.emit_serialOut (s : State) (b : Byte) : (s.emit b).serialOut = s.serialOut ++ [b] := rfl
@[simp] theorem State.emit_diagOut (s : State) (b : Byte) : (s.emit b).diagOut = s.diagOut := rfl

/-! ## storeWord -/

@[simp] theorem State.storeWord_config (s : State) (a v : Word) : (s.storeWord a v).config = s.config := rfl
@[simp] theorem State.storeWord_regs (s : State) (a v : Word) : (s.storeWord a v).regs = s.regs := rfl
@[simp] theorem State.storeWord_pc (s : State) (a v : Word) : (s.storeWord a v).pc = s.pc := rfl
@[simp] theorem State.storeWord_pending (s : State) (a v : Word) : (s.storeWord a v).pending = s.pending := rfl
@[simp] theorem State.storeWord_savedReturnAddress (s : State) (a v : Word) : (s.storeWord a v).savedReturnAddress = s.savedReturnAddress := rfl
@[simp] theorem State.storeWord_icount (s : State) (a v : Word) : (s.storeWord a v).icount = s.icount := rfl
@[simp] theorem State.storeWord_mem (s : State) (a v : Word) : (s.storeWord a v).mem = s.mem.writeWord a.toNat v := rfl
@[simp] theorem State.storeWord_serialOut (s : State) (a v : Word) : (s.storeWord a v).serialOut = s.serialOut := rfl
@[simp] theorem State.storeWord_diagOut (s : State) (a v : Word) : (s.storeWord a v).diagOut = s.diagOut := rfl

/-! ## report -/

@[simp] theorem State.report_config (s : State) (ipc inst : Word) : (s.report ipc inst).config = s.config := rfl
@[simp] theorem State.report_regs (s : State) (ipc inst : Word) : (s.report ipc inst).regs = s.regs := rfl
@[simp] theorem State.report_pc (s : State) (ipc inst : Word) : (s.report ipc inst).pc = s.pc := rfl
@[simp] theorem State.report_pending (s : State) (ipc inst : Word) : (s.report ipc inst).pending = s.pending := rfl
@[simp] theorem State.report_savedReturnAddress (s : State) (ipc inst : Word) : (s.report ipc inst).savedReturnAddress = s.savedReturnAddress := rfl
@[simp] theorem State.report_icount (s : State) (ipc inst : Word) : (s.report ipc inst).icount = s.icount := rfl
@[simp] theorem State.report_mem (s : State) (ipc inst : Word) : (s.report ipc inst).mem = s.mem := rfl
@[simp] theorem State.report_serialOut (s : State) (ipc inst : Word) : (s.report ipc inst).serialOut = s.serialOut := rfl
@[simp] theorem State.report_diagOut (s : State) (ipc inst : Word) : (s.report ipc inst).diagOut = s.diagOut ++ [⟨.unimplementedOperation, ipc, inst⟩] := rfl

/-! ## skipUnimplemented -/

@[simp] theorem State.skipUnimplemented_config (s : State) (inst : Word) : (s.skipUnimplemented inst).config = s.config := rfl
@[simp] theorem State.skipUnimplemented_regs (s : State) (inst : Word) : (s.skipUnimplemented inst).regs = s.regs := rfl
@[simp] theorem State.skipUnimplemented_pc (s : State) (inst : Word) : (s.skipUnimplemented inst).pc = s.pc + 4#32 := rfl
@[simp] theorem State.skipUnimplemented_pending (s : State) (inst : Word) : (s.skipUnimplemented inst).pending = s.pending := rfl
@[simp] theorem State.skipUnimplemented_savedReturnAddress (s : State) (inst : Word) : (s.skipUnimplemented inst).savedReturnAddress = s.savedReturnAddress := rfl
@[simp] theorem State.skipUnimplemented_icount (s : State) (inst : Word) : (s.skipUnimplemented inst).icount = s.icount := rfl
@[simp] theorem State.skipUnimplemented_mem (s : State) (inst : Word) : (s.skipUnimplemented inst).mem = s.mem := rfl
@[simp] theorem State.skipUnimplemented_serialOut (s : State) (inst : Word) : (s.skipUnimplemented inst).serialOut = s.serialOut := rfl
@[simp] theorem State.skipUnimplemented_diagOut (s : State) (inst : Word) : (s.skipUnimplemented inst).diagOut = s.diagOut ++ [⟨.unimplementedOperation, s.pc, inst⟩] := rfl

/-! ## enterInterrupt -/

@[simp] theorem State.enterInterrupt_config (s : State) : s.enterInterrupt.config = s.config := rfl
@[simp] theorem State.enterInterrupt_regs (s : State) : s.enterInterrupt.regs = s.regs := rfl
@[simp] theorem State.enterInterrupt_pc (s : State) : s.enterInterrupt.pc = s.config.handlerAddress := rfl
@[simp] theorem State.enterInterrupt_pending (s : State) : s.enterInterrupt.pending = false := rfl
@[simp] theorem State.enterInterrupt_savedReturnAddress (s : State) : s.enterInterrupt.savedReturnAddress = s.pc := rfl
@[simp] theorem State.enterInterrupt_icount (s : State) : s.enterInterrupt.icount = s.icount := rfl
@[simp] theorem State.enterInterrupt_mem (s : State) : s.enterInterrupt.mem = s.mem := rfl
@[simp] theorem State.enterInterrupt_serialOut (s : State) : s.enterInterrupt.serialOut = s.serialOut := rfl
@[simp] theorem State.enterInterrupt_diagOut (s : State) : s.enterInterrupt.diagOut = s.diagOut := rfl

/-! ## interruptCheck -/

@[simp] theorem State.interruptCheck_config (s : State) : s.interruptCheck.config = s.config := by
  unfold State.interruptCheck; split <;> simp_all
@[simp] theorem State.interruptCheck_regs (s : State) : s.interruptCheck.regs = s.regs := by
  unfold State.interruptCheck; split <;> simp_all
@[simp] theorem State.interruptCheck_pc (s : State) : s.interruptCheck.pc = if s.pending then s.config.handlerAddress else s.pc := by
  unfold State.interruptCheck; split <;> simp_all
@[simp] theorem State.interruptCheck_pending (s : State) : s.interruptCheck.pending = false := by
  unfold State.interruptCheck; split <;> simp_all
@[simp] theorem State.interruptCheck_savedReturnAddress (s : State) : s.interruptCheck.savedReturnAddress = if s.pending then s.pc else s.savedReturnAddress := by
  unfold State.interruptCheck; split <;> simp_all
@[simp] theorem State.interruptCheck_icount (s : State) : s.interruptCheck.icount = s.icount := by
  unfold State.interruptCheck; split <;> simp_all
@[simp] theorem State.interruptCheck_mem (s : State) : s.interruptCheck.mem = s.mem := by
  unfold State.interruptCheck; split <;> simp_all
@[simp] theorem State.interruptCheck_serialOut (s : State) : s.interruptCheck.serialOut = s.serialOut := by
  unfold State.interruptCheck; split <;> simp_all
@[simp] theorem State.interruptCheck_diagOut (s : State) : s.interruptCheck.diagOut = s.diagOut := by
  unfold State.interruptCheck; split <;> simp_all

/-! ## returnFromInterrupt -/

@[simp] theorem State.returnFromInterrupt_config (s : State) : s.returnFromInterrupt.config = s.config := rfl
@[simp] theorem State.returnFromInterrupt_regs (s : State) : s.returnFromInterrupt.regs = s.regs := rfl
@[simp] theorem State.returnFromInterrupt_pc (s : State) : s.returnFromInterrupt.pc = s.savedReturnAddress := rfl
@[simp] theorem State.returnFromInterrupt_pending (s : State) : s.returnFromInterrupt.pending = s.pending := rfl
@[simp] theorem State.returnFromInterrupt_savedReturnAddress (s : State) : s.returnFromInterrupt.savedReturnAddress = s.savedReturnAddress := rfl
@[simp] theorem State.returnFromInterrupt_icount (s : State) : s.returnFromInterrupt.icount = s.icount := rfl
@[simp] theorem State.returnFromInterrupt_mem (s : State) : s.returnFromInterrupt.mem = s.mem := rfl
@[simp] theorem State.returnFromInterrupt_serialOut (s : State) : s.returnFromInterrupt.serialOut = s.serialOut := rfl
@[simp] theorem State.returnFromInterrupt_diagOut (s : State) : s.returnFromInterrupt.diagOut = s.diagOut := rfl

/-! ## resetX0 -/

@[simp] theorem State.resetX0_config (s : State) : s.resetX0.config = s.config := rfl
@[simp] theorem State.resetX0_regs (s : State) : s.resetX0.regs = s.regs.set 0 0#32 := rfl
@[simp] theorem State.resetX0_pc (s : State) : s.resetX0.pc = s.pc := rfl
@[simp] theorem State.resetX0_pending (s : State) : s.resetX0.pending = s.pending := rfl
@[simp] theorem State.resetX0_savedReturnAddress (s : State) : s.resetX0.savedReturnAddress = s.savedReturnAddress := rfl
@[simp] theorem State.resetX0_icount (s : State) : s.resetX0.icount = s.icount := rfl
@[simp] theorem State.resetX0_mem (s : State) : s.resetX0.mem = s.mem := rfl
@[simp] theorem State.resetX0_serialOut (s : State) : s.resetX0.serialOut = s.serialOut := rfl
@[simp] theorem State.resetX0_diagOut (s : State) : s.resetX0.diagOut = s.diagOut := rfl

/-! ## scheduleInterrupt -/

@[simp] theorem State.scheduleInterrupt_config (s : State) : s.scheduleInterrupt.config = s.config := by
  unfold State.scheduleInterrupt; split <;> simp_all
@[simp] theorem State.scheduleInterrupt_regs (s : State) : s.scheduleInterrupt.regs = s.regs := by
  unfold State.scheduleInterrupt; split <;> simp_all
@[simp] theorem State.scheduleInterrupt_pc (s : State) : s.scheduleInterrupt.pc = s.pc := by
  unfold State.scheduleInterrupt; split <;> simp_all
@[simp] theorem State.scheduleInterrupt_pending (s : State) : s.scheduleInterrupt.pending = if s.icount + 1 = s.config.irqThreshold then true else s.pending := by
  unfold State.scheduleInterrupt; split <;> simp_all
@[simp] theorem State.scheduleInterrupt_savedReturnAddress (s : State) : s.scheduleInterrupt.savedReturnAddress = s.savedReturnAddress := by
  unfold State.scheduleInterrupt; split <;> simp_all
@[simp] theorem State.scheduleInterrupt_icount (s : State) : s.scheduleInterrupt.icount = if s.icount + 1 = s.config.irqThreshold then 0 else s.icount + 1 := by
  unfold State.scheduleInterrupt; split <;> simp_all
@[simp] theorem State.scheduleInterrupt_mem (s : State) : s.scheduleInterrupt.mem = s.mem := by
  unfold State.scheduleInterrupt; split <;> simp_all
@[simp] theorem State.scheduleInterrupt_serialOut (s : State) : s.scheduleInterrupt.serialOut = s.serialOut := by
  unfold State.scheduleInterrupt; split <;> simp_all
@[simp] theorem State.scheduleInterrupt_diagOut (s : State) : s.scheduleInterrupt.diagOut = s.diagOut := by
  unfold State.scheduleInterrupt; split <;> simp_all

/-! ## The register file -/

theorem State.readReg_zero (s : State) : s.readReg 0#5 = 0#32 := rfl

/-- Only `regs` matters to a register read. -/
theorem State.readReg_congr {s t : State} (h : t.regs = s.regs) (r : RegIdx) : t.readReg r = s.readReg r := by
  simp [State.readReg, h]

@[simp] theorem State.readReg_setPc (s : State) (a : Word) (r : RegIdx) : (s.setPc a).readReg r = s.readReg r := rfl

@[simp] theorem State.readReg_advance (s : State) (r : RegIdx) : s.advance.readReg r = s.readReg r := rfl

/-- A write shows in its own register unless that is `x0`, and nowhere else (R21, R22). -/
theorem State.readReg_writeReg (s : State) (r q : RegIdx) (v : Word) :
    (s.writeReg r v).readReg q = if q = r ∧ r ≠ 0#5 then v else s.readReg q := by
  by_cases hr : r = 0#5
  · simp [State.writeReg, hr]
  · by_cases hq : q = 0#5
    · have : q ≠ r := fun h => hr (h ▸ hq)
      rw [if_neg (fun h => this h.1)]
      simp [State.readReg, hq]
    · by_cases h : q = r
      · subst h; simp [State.writeReg, State.readReg, hr]
      · have hn : r.toNat ≠ q.toNat := fun e => h (BitVec.eq_of_toNat_eq e.symm)
        simp [State.writeReg, State.readReg, hr, hq, h, hn]

/-- The reset of slot 0 is not seen by any register read (R137). -/
@[simp] theorem State.readReg_resetX0 (s : State) (r : RegIdx) : s.resetX0.readReg r = s.readReg r := by
  by_cases h : r = 0#5
  · simp [State.readReg, h]
  · have : ¬ 0 = r.toNat := fun e => h (BitVec.eq_of_toNat_eq (by simpa using e.symm))
    simp [State.readReg, h, this]

/-- A register write keeps slot 0 as it is: it is dropped there (R22). -/
@[simp] theorem State.writeReg_x0 (s : State) (r : RegIdx) (v : Word) : (s.writeReg r v).regs[0] = s.regs[0] := by
  unfold State.writeReg
  split
  · rfl
  · rename_i h
    have : r.toNat ≠ 0 := fun e => h (BitVec.eq_of_toNat_eq (by simpa using e))
    simp [this]

end Sys2Proof.Machine
end

