-- ==== Sys2Proof/Laws/Bus.lean ====
section
/-! SUPPORT. What the router and the core's accesses do, said once: reads and writes by region, the bytes and the
streams a store changes, the canonical form kept. -/

namespace Sys2Proof.Machine

/-- The region depends on the parameters only. -/
theorem State.region_congr {s t : State} (h : t.config = s.config) (a : Word) : t.region a = s.region a := by
  simp [State.region, h]

theorem State.busRead_of_storage {s : State} {a : Word} (h : (s.region a).isStorage = true) :
    s.busRead a = s.mem.readWord a.toNat := by
  unfold State.busRead
  split <;> simp_all [Region.isStorage]

theorem State.busRead_of_not_storage {s : State} {a : Word} (h : (s.region a).isStorage = false) :
    s.busRead a = 0#32 := by
  unfold State.busRead
  split <;> simp_all [Region.isStorage, periphRead]

theorem State.busWrite_of_storage {s : State} {a : Word} (h : (s.region a).isStorage = true) (v : Word) :
    s.busWrite a v = s.storeWord a v := by
  unfold State.busWrite
  split <;> simp_all [Region.isStorage]

theorem State.busWrite_of_io {s : State} {a : Word} (h : s.region a = .io) (v : Word) :
    s.busWrite a v = s.periphWrite a v := by
  simp [State.busWrite, h]

theorem State.busWrite_of_exp_oor {s : State} {a : Word} (h : s.region a = .exp ∨ s.region a = .oor) (v : Word) :
    s.busWrite a v = s := by
  rcases h with h | h <;> simp [State.busWrite, h]

/-- Reads agree where the parameters and the four bytes do. -/
theorem State.busRead_congr {s t : State} {a : Word} (hc : t.config = s.config)
    (hm : (s.region a).isStorage = true → ∀ k, k < 4 → t.mem.read (a.toNat + k) = s.mem.read (a.toNat + k)) :
    t.busRead a = s.busRead a := by
  by_cases h : (s.region a).isStorage = true
  · have ht : (t.region a).isStorage = true := by rw [State.region_congr hc]; exact h
    have h0 := hm h 0 (by omega)
    rw [Nat.add_zero] at h0
    rw [State.busRead_of_storage h, State.busRead_of_storage ht]
    simp only [Memory.readWord, h0, hm h 1 (by omega), hm h 2 (by omega), hm h 3 (by omega)]
  · have h' : (s.region a).isStorage = false := by simpa using h
    have ht : (t.region a).isStorage = false := by rw [State.region_congr hc]; exact h'
    rw [State.busRead_of_not_storage h', State.busRead_of_not_storage ht]

/-! ## Fields a bus write leaves alone -/

@[simp] theorem State.periphWrite_config (s : State) (a v : Word) : (s.periphWrite a v).config = s.config := by
  unfold State.periphWrite; split <;> rfl
@[simp] theorem State.periphWrite_regs (s : State) (a v : Word) : (s.periphWrite a v).regs = s.regs := by
  unfold State.periphWrite; split <;> rfl
@[simp] theorem State.periphWrite_pc (s : State) (a v : Word) : (s.periphWrite a v).pc = s.pc := by
  unfold State.periphWrite; split <;> rfl
@[simp] theorem State.periphWrite_pending (s : State) (a v : Word) : (s.periphWrite a v).pending = s.pending := by
  unfold State.periphWrite; split <;> rfl
@[simp] theorem State.periphWrite_savedReturnAddress (s : State) (a v : Word) : (s.periphWrite a v).savedReturnAddress = s.savedReturnAddress := by
  unfold State.periphWrite; split <;> rfl
@[simp] theorem State.periphWrite_icount (s : State) (a v : Word) : (s.periphWrite a v).icount = s.icount := by
  unfold State.periphWrite; split <;> rfl
@[simp] theorem State.periphWrite_diagOut (s : State) (a v : Word) : (s.periphWrite a v).diagOut = s.diagOut := by
  unfold State.periphWrite; split <;> rfl

@[simp] theorem State.periphWrite_mem (s : State) (a v : Word) : (s.periphWrite a v).mem = s.mem := by
  unfold State.periphWrite; split <;> rfl

@[simp] theorem State.busWrite_config (s : State) (a v : Word) : (s.busWrite a v).config = s.config := by
  unfold State.busWrite; split <;> simp
@[simp] theorem State.busWrite_regs (s : State) (a v : Word) : (s.busWrite a v).regs = s.regs := by
  unfold State.busWrite; split <;> simp
@[simp] theorem State.busWrite_pc (s : State) (a v : Word) : (s.busWrite a v).pc = s.pc := by
  unfold State.busWrite; split <;> simp
@[simp] theorem State.busWrite_pending (s : State) (a v : Word) : (s.busWrite a v).pending = s.pending := by
  unfold State.busWrite; split <;> simp
@[simp] theorem State.busWrite_savedReturnAddress (s : State) (a v : Word) : (s.busWrite a v).savedReturnAddress = s.savedReturnAddress := by
  unfold State.busWrite; split <;> simp
@[simp] theorem State.busWrite_icount (s : State) (a v : Word) : (s.busWrite a v).icount = s.icount := by
  unfold State.busWrite; split <;> simp
@[simp] theorem State.busWrite_diagOut (s : State) (a v : Word) : (s.busWrite a v).diagOut = s.diagOut := by
  unfold State.busWrite; split <;> simp

@[simp] theorem State.memWrite_config (s : State) (w : Width) (addr v : Word) : (s.memWrite w addr v).config = s.config := by
  cases w <;> simp [State.memWrite]
@[simp] theorem State.memWrite_regs (s : State) (w : Width) (addr v : Word) : (s.memWrite w addr v).regs = s.regs := by
  cases w <;> simp [State.memWrite]
@[simp] theorem State.memWrite_pc (s : State) (w : Width) (addr v : Word) : (s.memWrite w addr v).pc = s.pc := by
  cases w <;> simp [State.memWrite]
@[simp] theorem State.memWrite_pending (s : State) (w : Width) (addr v : Word) : (s.memWrite w addr v).pending = s.pending := by
  cases w <;> simp [State.memWrite]
@[simp] theorem State.memWrite_savedReturnAddress (s : State) (w : Width) (addr v : Word) : (s.memWrite w addr v).savedReturnAddress = s.savedReturnAddress := by
  cases w <;> simp [State.memWrite]
@[simp] theorem State.memWrite_icount (s : State) (w : Width) (addr v : Word) : (s.memWrite w addr v).icount = s.icount := by
  cases w <;> simp [State.memWrite]
@[simp] theorem State.memWrite_diagOut (s : State) (w : Width) (addr v : Word) : (s.memWrite w addr v).diagOut = s.diagOut := by
  cases w <;> simp [State.memWrite]

@[simp] theorem State.readReg_memWrite (s : State) (w : Width) (addr v : Word) (r : RegIdx) :
    (s.memWrite w addr v).readReg r = s.readReg r := State.readReg_congr (by simp) r

/-! ## The memory after a bus write -/

/-- The memory a bus write leaves: the word stored in storage, the same elsewhere. -/
theorem State.busWrite_mem (s : State) (a v : Word) :
    (s.busWrite a v).mem = if (s.region a).isStorage then s.mem.writeWord a.toNat v else s.mem := by
  unfold State.busWrite
  split <;> simp_all [Region.isStorage]

/-- The stream a bus write leaves (R58, R70). -/
theorem State.busWrite_serialOut (s : State) (a v : Word) :
    (s.busWrite a v).serialOut =
      s.serialOut ++ (if s.region a = .io ∧ a = serialAddr then [byteOfWord v 0] else []) := by
  unfold State.busWrite
  split <;> simp_all [State.periphWrite]
  split <;> simp

/-- A bus write keeps the canonical form. -/
theorem State.busWrite_wf {s : State} (h : s.mem.wf) (a v : Word) : (s.busWrite a v).mem.wf := by
  rw [State.busWrite_mem]
  split
  · exact Memory.writeWord_wf h _ _
  · exact h

/-- Storage is what lies inside the store and outside EXP and IO (R50, R53). -/
theorem regionOf_isStorage (m : Nat) (a : Word) :
    (regionOf m a).isStorage = true ↔ a.toNat + 3 < m ∧ (a.toNat < 0x90000 ∨ 0xA0000 ≤ a.toNat) := by
  unfold regionOf
  (repeat' split) <;> simp [Region.isStorage] <;> omega

/-- Storage lies inside the store: all four bytes of a transaction (R51, R59). -/
theorem regionOf_storage_inside {m : Nat} {a : Word} (h : (regionOf m a).isStorage = true) : a.toNat + 3 < m :=
  ((regionOf_isStorage m a).mp h).1

/-- A bus write lists no byte outside the store. -/
theorem State.busWrite_inside {s : State} (h : ∀ c ∈ s.mem, c.1 < s.config.memSize) (a v : Word) :
    ∀ c ∈ (s.busWrite a v).mem, c.1 < s.config.memSize := by
  rw [State.busWrite_mem]
  split
  · rename_i hs
    intro c hc
    have := regionOf_storage_inside (m := s.config.memSize) hs
    rcases Memory.mem_writeWord hc with hc | ⟨-, hc⟩
    · exact h c hc
    · omega
  · exact h

/-! ## `MemWrite` -/

/-- The bytes of a merged word: the new ones below the width, the old ones above (R63). -/
theorem byteOfWord_mergeWord (w : Width) (old v : Word) (k : Nat) (hk : k < 4) :
    byteOfWord (mergeWord w old v) k = if k < w.bytes then byteOfWord v k else byteOfWord old k := by
  cases w <;> interval_cases k <;>
  · apply BitVec.eq_of_getLsbD_eq
    intro i hi
    simp only [byteOfWord, mergeWord, Width.mask, Width.bytes, BitVec.getLsbD_extractLsb', BitVec.getLsbD_or,
      BitVec.getLsbD_and, BitVec.getLsbD_not]
    interval_cases i <;> simp

theorem Width.bytes_le (w : Width) : w.bytes ≤ 4 := by cases w <;> decide

theorem mergeWord_word (old v : Word) : mergeWord .word old v = v := by
  apply BitVec.eq_of_getLsbD_eq
  intro i hi
  simp only [mergeWord, Width.mask, BitVec.getLsbD_or, BitVec.getLsbD_and, BitVec.getLsbD_not]
  interval_cases i <;> simp

/-- Every width is one bus write of the merged word. -/
theorem State.memWrite_eq_busWrite (s : State) (w : Width) (addr v : Word) :
    s.memWrite w addr v = s.busWrite (align w addr) (mergeWord w (s.busRead (align w addr)) v) := by
  cases w <;> simp [State.memWrite, mergeWord_word]

/-- The bytes of memory after `MemWrite` (R74): in storage exactly the `n` bytes at the aligned address change. -/
theorem State.read_memWrite {s : State} (h : s.mem.wf) (w : Width) (addr v : Word) (b : Nat) :
    (s.memWrite w addr v).mem.read b =
      if (s.region (align w addr)).isStorage = true ∧ (align w addr).toNat ≤ b ∧ b < (align w addr).toNat + w.bytes
      then byteOfWord v (b - (align w addr).toNat) else s.mem.read b := by
  rw [State.memWrite_eq_busWrite, State.busWrite_mem]
  by_cases hs : (s.region (align w addr)).isStorage = true
  · rw [if_pos hs, Memory.read_writeWord h.1, State.busRead_of_storage hs]
    have hw := w.bytes_le
    by_cases hin : (align w addr).toNat ≤ b ∧ b < (align w addr).toNat + 4
    · obtain ⟨k, hk, rfl⟩ : ∃ k, k < 4 ∧ b = (align w addr).toNat + k := ⟨b - (align w addr).toNat, by omega, by omega⟩
      rw [if_pos hin, Nat.add_sub_cancel_left, byteOfWord_mergeWord _ _ _ _ hk, Memory.byteOfWord_readWord _ _ _ hk]
      by_cases hkw : k < w.bytes
      · rw [if_pos hkw, if_pos ⟨hs, by omega, by omega⟩]
      · rw [if_neg hkw, if_neg (by omega)]
    · rw [if_neg hin, if_neg (by omega)]
  · rw [if_neg hs, if_neg (fun hh => hs hh.1)]

/-- The byte `MemWrite` emits, if any (R70). -/
theorem State.memWrite_serialOut (s : State) (w : Width) (addr v : Word) :
    (s.memWrite w addr v).serialOut =
      s.serialOut ++ (if s.region (align w addr) = .io ∧ align w addr = serialAddr then [byteOfWord v 0] else []) := by
  rw [State.memWrite_eq_busWrite, State.busWrite_serialOut, byteOfWord_mergeWord _ _ _ 0 (by omega)]
  simp [show 0 < w.bytes by cases w <;> decide]

/-- `MemWrite` keeps the canonical form. -/
theorem State.memWrite_wf {s : State} (h : s.mem.wf) (w : Width) (addr v : Word) : (s.memWrite w addr v).mem.wf := by
  rw [State.memWrite_eq_busWrite]; exact State.busWrite_wf h _ _

/-- `MemWrite` lists no byte outside the store. -/
theorem State.memWrite_inside {s : State} (h : ∀ c ∈ s.mem, c.1 < s.config.memSize) (w : Width) (addr v : Word) :
    ∀ c ∈ (s.memWrite w addr v).mem, c.1 < s.config.memSize := by
  rw [State.memWrite_eq_busWrite]; exact State.busWrite_inside h _ _

end Sys2Proof.Machine
end

