-- ==== Sys2Proof/Laws/Decode.lean ====
section
/-! SUPPORT. The fields of the encoded formats, and the formats put back together from the fields of a word. -/

namespace Sys2Proof

/-! ## Bits of the fields -/

@[simp] theorem getLsbD_opcodeField (w : Word) (k : Nat) : (opcodeField w).getLsbD k = (decide (k < 7) && w.getLsbD k) := by
  simp [opcodeField]

@[simp] theorem getLsbD_rdField (w : Word) (k : Nat) : (rdField w).getLsbD k = (decide (k < 5) && w.getLsbD (7 + k)) := by
  simp [rdField]

@[simp] theorem getLsbD_funct3Field (w : Word) (k : Nat) :
    (funct3Field w).getLsbD k = (decide (k < 3) && w.getLsbD (12 + k)) := by
  simp [funct3Field]

@[simp] theorem getLsbD_rs1Field (w : Word) (k : Nat) : (rs1Field w).getLsbD k = (decide (k < 5) && w.getLsbD (15 + k)) := by
  simp [rs1Field]

@[simp] theorem getLsbD_rs2Field (w : Word) (k : Nat) : (rs2Field w).getLsbD k = (decide (k < 5) && w.getLsbD (20 + k)) := by
  simp [rs2Field]

@[simp] theorem getLsbD_funct7Field (w : Word) (k : Nat) :
    (funct7Field w).getLsbD k = (decide (k < 7) && w.getLsbD (25 + k)) := by
  simp [funct7Field]

/-! ## R-type -/

section RType
variable (funct7 : BitVec 7) (rs2 rs1 : RegIdx) (funct3 : BitVec 3) (rd : RegIdx) (op : BitVec 7)

theorem encodeR_fields :
    opcodeField (encodeR funct7 rs2 rs1 funct3 rd op) = op ∧
    rdField (encodeR funct7 rs2 rs1 funct3 rd op) = rd ∧
    funct3Field (encodeR funct7 rs2 rs1 funct3 rd op) = funct3 ∧
    rs1Field (encodeR funct7 rs2 rs1 funct3 rd op) = rs1 ∧
    rs2Field (encodeR funct7 rs2 rs1 funct3 rd op) = rs2 ∧
    funct7Field (encodeR funct7 rs2 rs1 funct3 rd op) = funct7 := by
  refine ⟨?_, ?_, ?_, ?_, ?_, ?_⟩ <;>
  · apply BitVec.eq_of_getLsbD_eq
    intro i hi
    simp only [encodeR, getLsbD_opcodeField, getLsbD_rdField, getLsbD_funct3Field, getLsbD_rs1Field, getLsbD_rs2Field,
      getLsbD_funct7Field, BitVec.getLsbD_append]
    interval_cases i <;> simp

end RType

/-- A word is put back together from its R-type fields. -/
theorem encodeR_of_fields (w : Word) :
    encodeR (funct7Field w) (rs2Field w) (rs1Field w) (funct3Field w) (rdField w) (opcodeField w) = w := by
  apply BitVec.eq_of_getLsbD_eq
  intro i hi
  simp only [encodeR, getLsbD_opcodeField, getLsbD_rdField, getLsbD_funct3Field, getLsbD_rs1Field, getLsbD_rs2Field,
      getLsbD_funct7Field, BitVec.getLsbD_append]
  interval_cases i <;> simp

/-! ## I-type -/

section IType
variable (imm : BitVec 12) (rs1 : RegIdx) (funct3 : BitVec 3) (rd : RegIdx) (op : BitVec 7)

theorem encodeI_fields :
    opcodeField (encodeI imm rs1 funct3 rd op) = op ∧
    rdField (encodeI imm rs1 funct3 rd op) = rd ∧
    funct3Field (encodeI imm rs1 funct3 rd op) = funct3 ∧
    rs1Field (encodeI imm rs1 funct3 rd op) = rs1 := by
  refine ⟨?_, ?_, ?_, ?_⟩ <;>
  · apply BitVec.eq_of_getLsbD_eq
    intro i hi
    simp only [encodeI, getLsbD_opcodeField, getLsbD_rdField, getLsbD_funct3Field, getLsbD_rs1Field,
      BitVec.getLsbD_append]
    interval_cases i <;> simp

theorem immIField_encodeI : immIField (encodeI imm rs1 funct3 rd op) = imm := by
  apply BitVec.eq_of_getLsbD_eq
  intro i hi
  simp only [encodeI, immIField, BitVec.getLsbD_append, BitVec.getLsbD_extractLsb']
  interval_cases i <;> simp

end IType

/-- A word is put back together from its I-type fields. -/
theorem encodeI_of_fields (w : Word) :
    encodeI (immIField w) (rs1Field w) (funct3Field w) (rdField w) (opcodeField w) = w := by
  apply BitVec.eq_of_getLsbD_eq
  intro i hi
  simp only [encodeI, immIField, getLsbD_opcodeField, getLsbD_rdField, getLsbD_funct3Field, getLsbD_rs1Field,
      BitVec.getLsbD_append,
    BitVec.getLsbD_extractLsb']
  interval_cases i <;> simp

/-! ## S-type -/

section SType
variable (imm : BitVec 12) (rs2 rs1 : RegIdx) (funct3 : BitVec 3) (op : BitVec 7)

theorem encodeS_fields :
    opcodeField (encodeS imm rs2 rs1 funct3 op) = op ∧
    funct3Field (encodeS imm rs2 rs1 funct3 op) = funct3 ∧
    rs1Field (encodeS imm rs2 rs1 funct3 op) = rs1 ∧
    rs2Field (encodeS imm rs2 rs1 funct3 op) = rs2 := by
  refine ⟨?_, ?_, ?_, ?_⟩ <;>
  · apply BitVec.eq_of_getLsbD_eq
    intro i hi
    simp only [encodeS, getLsbD_opcodeField, getLsbD_funct3Field, getLsbD_rs1Field, getLsbD_rs2Field,
      BitVec.getLsbD_append,
      BitVec.getLsbD_extractLsb']
    interval_cases i <;> simp

theorem immSField_encodeS : immSField (encodeS imm rs2 rs1 funct3 op) = imm := by
  apply BitVec.eq_of_getLsbD_eq
  intro i hi
  simp only [encodeS, immSField, BitVec.getLsbD_append, BitVec.getLsbD_extractLsb']
  interval_cases i <;> simp

end SType

/-- A word is put back together from its S-type fields. -/
theorem encodeS_of_fields (w : Word) :
    encodeS (immSField w) (rs2Field w) (rs1Field w) (funct3Field w) (opcodeField w) = w := by
  apply BitVec.eq_of_getLsbD_eq
  intro i hi
  simp only [encodeS, immSField, getLsbD_opcodeField, getLsbD_funct3Field, getLsbD_rs1Field, getLsbD_rs2Field,
      BitVec.getLsbD_append,
    BitVec.getLsbD_extractLsb']
  interval_cases i <;> simp

/-! ## B-type -/

section BType
variable (imm : BitVec 13) (rs2 rs1 : RegIdx) (funct3 : BitVec 3) (op : BitVec 7)

theorem encodeB_fields :
    opcodeField (encodeB imm rs2 rs1 funct3 op) = op ∧
    funct3Field (encodeB imm rs2 rs1 funct3 op) = funct3 ∧
    rs1Field (encodeB imm rs2 rs1 funct3 op) = rs1 ∧
    rs2Field (encodeB imm rs2 rs1 funct3 op) = rs2 := by
  refine ⟨?_, ?_, ?_, ?_⟩ <;>
  · apply BitVec.eq_of_getLsbD_eq
    intro i hi
    simp only [encodeB, getLsbD_opcodeField, getLsbD_funct3Field, getLsbD_rs1Field, getLsbD_rs2Field,
      BitVec.getLsbD_append,
      BitVec.getLsbD_extractLsb']
    interval_cases i <;> simp

theorem immBField_encodeB (h : imm.getLsbD 0 = false) : immBField (encodeB imm rs2 rs1 funct3 op) = imm := by
  apply BitVec.eq_of_getLsbD_eq
  intro i hi
  simp only [encodeB, immBField, BitVec.getLsbD_append, BitVec.getLsbD_extractLsb']
  interval_cases i
  · simpa using h
  all_goals simp

/-- Bit 0 of the offset is the implicit zero. -/
theorem immBField_even (w : Word) : (immBField w).getLsbD 0 = false := by
  simp only [immBField, BitVec.getLsbD_append]; simp

end BType

/-- A word is put back together from its B-type fields. -/
theorem encodeB_of_fields (w : Word) :
    encodeB (immBField w) (rs2Field w) (rs1Field w) (funct3Field w) (opcodeField w) = w := by
  apply BitVec.eq_of_getLsbD_eq
  intro i hi
  simp only [encodeB, immBField, getLsbD_opcodeField, getLsbD_funct3Field, getLsbD_rs1Field, getLsbD_rs2Field,
      BitVec.getLsbD_append,
    BitVec.getLsbD_extractLsb']
  interval_cases i <;> simp

/-! ## U-type -/

section UType
variable (imm : BitVec 20) (rd : RegIdx) (op : BitVec 7)

theorem encodeU_fields :
    opcodeField (encodeU imm rd op) = op ∧
    rdField (encodeU imm rd op) = rd := by
  refine ⟨?_, ?_⟩ <;>
  · apply BitVec.eq_of_getLsbD_eq
    intro i hi
    simp only [encodeU, getLsbD_opcodeField, getLsbD_rdField,
      BitVec.getLsbD_append]
    interval_cases i <;> simp

theorem immUField_encodeU : immUField (encodeU imm rd op) = imm := by
  apply BitVec.eq_of_getLsbD_eq
  intro i hi
  simp only [encodeU, immUField, BitVec.getLsbD_append, BitVec.getLsbD_extractLsb']
  interval_cases i <;> simp

end UType

/-- A word is put back together from its U-type fields. -/
theorem encodeU_of_fields (w : Word) :
    encodeU (immUField w) (rdField w) (opcodeField w) = w := by
  apply BitVec.eq_of_getLsbD_eq
  intro i hi
  simp only [encodeU, immUField, getLsbD_opcodeField, getLsbD_rdField,
      BitVec.getLsbD_append,
    BitVec.getLsbD_extractLsb']
  interval_cases i <;> simp

/-! ## J-type -/

section JType
variable (imm : BitVec 21) (rd : RegIdx) (op : BitVec 7)

theorem encodeJ_fields :
    opcodeField (encodeJ imm rd op) = op ∧
    rdField (encodeJ imm rd op) = rd := by
  refine ⟨?_, ?_⟩ <;>
  · apply BitVec.eq_of_getLsbD_eq
    intro i hi
    simp only [encodeJ, getLsbD_opcodeField, getLsbD_rdField,
      BitVec.getLsbD_append,
      BitVec.getLsbD_extractLsb']
    interval_cases i <;> simp

theorem immJField_encodeJ (h : imm.getLsbD 0 = false) : immJField (encodeJ imm rd op) = imm := by
  apply BitVec.eq_of_getLsbD_eq
  intro i hi
  simp only [encodeJ, immJField, BitVec.getLsbD_append, BitVec.getLsbD_extractLsb']
  interval_cases i
  · simpa using h
  all_goals simp

/-- Bit 0 of the offset is the implicit zero. -/
theorem immJField_even (w : Word) : (immJField w).getLsbD 0 = false := by
  simp only [immJField, BitVec.getLsbD_append]; simp

end JType

/-- A word is put back together from its J-type fields. -/
theorem encodeJ_of_fields (w : Word) :
    encodeJ (immJField w) (rdField w) (opcodeField w) = w := by
  apply BitVec.eq_of_getLsbD_eq
  intro i hi
  simp only [encodeJ, immJField, getLsbD_opcodeField, getLsbD_rdField,
      BitVec.getLsbD_append,
    BitVec.getLsbD_extractLsb']
  interval_cases i <;> simp

/-! ## Rows of the table as conditions on the fields -/

theorem holds_opcode (w : Word) (op : BitVec 7) :
    w &&& 0x0000007F#32 = 0#25 ++ op ↔ opcodeField w = op := by
  constructor
  · intro h
    apply BitVec.eq_of_getLsbD_eq
    intro i hi
    have := congrArg (fun v => v.getLsbD i) h
    simp only [BitVec.getLsbD_and, BitVec.getLsbD_append, getLsbD_opcodeField] at this ⊢
    interval_cases i <;> simpa using this
  · rintro rfl
    apply BitVec.eq_of_getLsbD_eq
    intro i hi
    simp only [BitVec.getLsbD_and, BitVec.getLsbD_append, getLsbD_opcodeField]
    interval_cases i <;> simp

theorem holds_funct3 (w : Word) (op : BitVec 7) (f3 : BitVec 3) :
    w &&& 0x0000707F#32 = 0#17 ++ f3 ++ 0#5 ++ op ↔ opcodeField w = op ∧ funct3Field w = f3 := by
  constructor
  · intro h
    constructor
    · apply BitVec.eq_of_getLsbD_eq
      intro i hi
      have := congrArg (fun v => v.getLsbD i) h
      simp only [BitVec.getLsbD_and, BitVec.getLsbD_append, getLsbD_opcodeField] at this ⊢
      interval_cases i <;> simpa using this
    · apply BitVec.eq_of_getLsbD_eq
      intro i hi
      have := congrArg (fun v => v.getLsbD (12 + i)) h
      simp only [BitVec.getLsbD_and, BitVec.getLsbD_append, getLsbD_funct3Field] at this ⊢
      interval_cases i <;> simpa using this
  · rintro ⟨rfl, rfl⟩
    apply BitVec.eq_of_getLsbD_eq
    intro i hi
    simp only [BitVec.getLsbD_and, BitVec.getLsbD_append, getLsbD_opcodeField, getLsbD_funct3Field]
    interval_cases i <;> simp

theorem holds_funct7 (w : Word) (op : BitVec 7) (f3 : BitVec 3) (f7 : BitVec 7) :
    w &&& 0xFE00707F#32 = f7 ++ 0#10 ++ f3 ++ 0#5 ++ op ↔
      opcodeField w = op ∧ funct3Field w = f3 ∧ funct7Field w = f7 := by
  constructor
  · intro h
    refine ⟨?_, ?_, ?_⟩
    · apply BitVec.eq_of_getLsbD_eq
      intro i hi
      have := congrArg (fun v => v.getLsbD i) h
      simp only [BitVec.getLsbD_and, BitVec.getLsbD_append, getLsbD_opcodeField] at this ⊢
      interval_cases i <;> simpa using this
    · apply BitVec.eq_of_getLsbD_eq
      intro i hi
      have := congrArg (fun v => v.getLsbD (12 + i)) h
      simp only [BitVec.getLsbD_and, BitVec.getLsbD_append, getLsbD_funct3Field] at this ⊢
      interval_cases i <;> simpa using this
    · apply BitVec.eq_of_getLsbD_eq
      intro i hi
      have := congrArg (fun v => v.getLsbD (25 + i)) h
      simp only [BitVec.getLsbD_and, BitVec.getLsbD_append, getLsbD_funct7Field] at this ⊢
      interval_cases i <;> simpa using this
  · rintro ⟨rfl, rfl, rfl⟩
    apply BitVec.eq_of_getLsbD_eq
    intro i hi
    simp only [BitVec.getLsbD_and, BitVec.getLsbD_append, getLsbD_opcodeField, getLsbD_funct3Field, getLsbD_funct7Field]
    interval_cases i <;> simp

end Sys2Proof
end

