-- ==== Sys2Proof/Laws/PerInstr.lean ====
section
/-! SUPPORT. Per instruction: the encoder's word lies in the instruction's row of the opcode table. -/

namespace Sys2Proof.Laws.EncodesItsRow

/-- The word of `i` has the row's fixed bits. -/
def Statement (i : Instr) : Prop := i.row.holds (encode i) = true

theorem of_opcode {i : Instr} {w : Word} {op : BitVec 7} (hw : encode i = w) (h : opcodeField w = op)
    (hm : i.row.mask = 0x0000007F#32) (hv : i.row.value = 0#25 ++ op) : Statement i := by
  simpa [Statement, Row.holds, hw, hm, hv] using (holds_opcode w op).mpr h

theorem of_funct3 {i : Instr} {w : Word} {op : BitVec 7} {f3 : BitVec 3} (hw : encode i = w)
    (h : opcodeField w = op ∧ funct3Field w = f3) (hm : i.row.mask = 0x0000707F#32)
    (hv : i.row.value = 0#17 ++ f3 ++ 0#5 ++ op) : Statement i := by
  simpa [Statement, Row.holds, hw, hm, hv] using (holds_funct3 w op f3).mpr h

theorem of_funct7 {i : Instr} {w : Word} {op : BitVec 7} {f3 : BitVec 3} {f7 : BitVec 7} (hw : encode i = w)
    (h : opcodeField w = op ∧ funct3Field w = f3 ∧ funct7Field w = f7) (hm : i.row.mask = 0xFE00707F#32)
    (hv : i.row.value = f7 ++ 0#10 ++ f3 ++ 0#5 ++ op) : Statement i := by
  simpa [Statement, Row.holds, hw, hm, hv] using (holds_funct7 w op f3 f7).mpr h

theorem lui (rd : RegIdx) (imm : BitVec 20) : Statement (.lui rd imm) :=
  of_opcode rfl (encodeU_fields _ _ _).1 rfl rfl

theorem auipc (rd : RegIdx) (imm : BitVec 20) : Statement (.auipc rd imm) :=
  of_opcode rfl (encodeU_fields _ _ _).1 rfl rfl

theorem jal (rd : RegIdx) (imm : BitVec 21) : Statement (.jal rd imm) :=
  of_opcode rfl (encodeJ_fields _ _ _).1 rfl rfl

theorem jalr (rd rs1 : RegIdx) (imm : BitVec 12) : Statement (.jalr rd rs1 imm) :=
  let f := encodeI_fields _ _ _ _ _; of_funct3 rfl ⟨f.1, f.2.2.1⟩ rfl rfl

theorem beq (rs1 rs2 : RegIdx) (imm : BitVec 13) : Statement (.beq rs1 rs2 imm) :=
  let f := encodeB_fields _ _ _ _ _; of_funct3 rfl ⟨f.1, f.2.1⟩ rfl rfl

theorem bne (rs1 rs2 : RegIdx) (imm : BitVec 13) : Statement (.bne rs1 rs2 imm) :=
  let f := encodeB_fields _ _ _ _ _; of_funct3 rfl ⟨f.1, f.2.1⟩ rfl rfl

theorem blt (rs1 rs2 : RegIdx) (imm : BitVec 13) : Statement (.blt rs1 rs2 imm) :=
  let f := encodeB_fields _ _ _ _ _; of_funct3 rfl ⟨f.1, f.2.1⟩ rfl rfl

theorem bge (rs1 rs2 : RegIdx) (imm : BitVec 13) : Statement (.bge rs1 rs2 imm) :=
  let f := encodeB_fields _ _ _ _ _; of_funct3 rfl ⟨f.1, f.2.1⟩ rfl rfl

theorem bltu (rs1 rs2 : RegIdx) (imm : BitVec 13) : Statement (.bltu rs1 rs2 imm) :=
  let f := encodeB_fields _ _ _ _ _; of_funct3 rfl ⟨f.1, f.2.1⟩ rfl rfl

theorem bgeu (rs1 rs2 : RegIdx) (imm : BitVec 13) : Statement (.bgeu rs1 rs2 imm) :=
  let f := encodeB_fields _ _ _ _ _; of_funct3 rfl ⟨f.1, f.2.1⟩ rfl rfl

theorem lb (rd rs1 : RegIdx) (imm : BitVec 12) : Statement (.lb rd rs1 imm) :=
  let f := encodeI_fields _ _ _ _ _; of_funct3 rfl ⟨f.1, f.2.2.1⟩ rfl rfl

theorem lh (rd rs1 : RegIdx) (imm : BitVec 12) : Statement (.lh rd rs1 imm) :=
  let f := encodeI_fields _ _ _ _ _; of_funct3 rfl ⟨f.1, f.2.2.1⟩ rfl rfl

theorem lw (rd rs1 : RegIdx) (imm : BitVec 12) : Statement (.lw rd rs1 imm) :=
  let f := encodeI_fields _ _ _ _ _; of_funct3 rfl ⟨f.1, f.2.2.1⟩ rfl rfl

theorem lbu (rd rs1 : RegIdx) (imm : BitVec 12) : Statement (.lbu rd rs1 imm) :=
  let f := encodeI_fields _ _ _ _ _; of_funct3 rfl ⟨f.1, f.2.2.1⟩ rfl rfl

theorem lhu (rd rs1 : RegIdx) (imm : BitVec 12) : Statement (.lhu rd rs1 imm) :=
  let f := encodeI_fields _ _ _ _ _; of_funct3 rfl ⟨f.1, f.2.2.1⟩ rfl rfl

theorem sb (rs1 rs2 : RegIdx) (imm : BitVec 12) : Statement (.sb rs1 rs2 imm) :=
  let f := encodeS_fields _ _ _ _ _; of_funct3 rfl ⟨f.1, f.2.1⟩ rfl rfl

theorem sh (rs1 rs2 : RegIdx) (imm : BitVec 12) : Statement (.sh rs1 rs2 imm) :=
  let f := encodeS_fields _ _ _ _ _; of_funct3 rfl ⟨f.1, f.2.1⟩ rfl rfl

theorem sw (rs1 rs2 : RegIdx) (imm : BitVec 12) : Statement (.sw rs1 rs2 imm) :=
  let f := encodeS_fields _ _ _ _ _; of_funct3 rfl ⟨f.1, f.2.1⟩ rfl rfl

theorem addi (rd rs1 : RegIdx) (imm : BitVec 12) : Statement (.addi rd rs1 imm) :=
  let f := encodeI_fields _ _ _ _ _; of_funct3 rfl ⟨f.1, f.2.2.1⟩ rfl rfl

theorem slti (rd rs1 : RegIdx) (imm : BitVec 12) : Statement (.slti rd rs1 imm) :=
  let f := encodeI_fields _ _ _ _ _; of_funct3 rfl ⟨f.1, f.2.2.1⟩ rfl rfl

theorem sltiu (rd rs1 : RegIdx) (imm : BitVec 12) : Statement (.sltiu rd rs1 imm) :=
  let f := encodeI_fields _ _ _ _ _; of_funct3 rfl ⟨f.1, f.2.2.1⟩ rfl rfl

theorem xori (rd rs1 : RegIdx) (imm : BitVec 12) : Statement (.xori rd rs1 imm) :=
  let f := encodeI_fields _ _ _ _ _; of_funct3 rfl ⟨f.1, f.2.2.1⟩ rfl rfl

theorem ori (rd rs1 : RegIdx) (imm : BitVec 12) : Statement (.ori rd rs1 imm) :=
  let f := encodeI_fields _ _ _ _ _; of_funct3 rfl ⟨f.1, f.2.2.1⟩ rfl rfl

theorem andi (rd rs1 : RegIdx) (imm : BitVec 12) : Statement (.andi rd rs1 imm) :=
  let f := encodeI_fields _ _ _ _ _; of_funct3 rfl ⟨f.1, f.2.2.1⟩ rfl rfl

theorem slli (rd rs1 : RegIdx) (shamt : BitVec 5) : Statement (.slli rd rs1 shamt) :=
  let f := encodeR_fields _ _ _ _ _ _; of_funct7 rfl ⟨f.1, f.2.2.1, f.2.2.2.2.2⟩ rfl rfl

theorem srli (rd rs1 : RegIdx) (shamt : BitVec 5) : Statement (.srli rd rs1 shamt) :=
  let f := encodeR_fields _ _ _ _ _ _; of_funct7 rfl ⟨f.1, f.2.2.1, f.2.2.2.2.2⟩ rfl rfl

theorem srai (rd rs1 : RegIdx) (shamt : BitVec 5) : Statement (.srai rd rs1 shamt) :=
  let f := encodeR_fields _ _ _ _ _ _; of_funct7 rfl ⟨f.1, f.2.2.1, f.2.2.2.2.2⟩ rfl rfl

theorem add (rd rs1 rs2 : RegIdx) : Statement (.add rd rs1 rs2) :=
  let f := encodeR_fields _ _ _ _ _ _; of_funct7 rfl ⟨f.1, f.2.2.1, f.2.2.2.2.2⟩ rfl rfl

theorem sub (rd rs1 rs2 : RegIdx) : Statement (.sub rd rs1 rs2) :=
  let f := encodeR_fields _ _ _ _ _ _; of_funct7 rfl ⟨f.1, f.2.2.1, f.2.2.2.2.2⟩ rfl rfl

theorem sll (rd rs1 rs2 : RegIdx) : Statement (.sll rd rs1 rs2) :=
  let f := encodeR_fields _ _ _ _ _ _; of_funct7 rfl ⟨f.1, f.2.2.1, f.2.2.2.2.2⟩ rfl rfl

theorem slt (rd rs1 rs2 : RegIdx) : Statement (.slt rd rs1 rs2) :=
  let f := encodeR_fields _ _ _ _ _ _; of_funct7 rfl ⟨f.1, f.2.2.1, f.2.2.2.2.2⟩ rfl rfl

theorem sltu (rd rs1 rs2 : RegIdx) : Statement (.sltu rd rs1 rs2) :=
  let f := encodeR_fields _ _ _ _ _ _; of_funct7 rfl ⟨f.1, f.2.2.1, f.2.2.2.2.2⟩ rfl rfl

theorem xor (rd rs1 rs2 : RegIdx) : Statement (.xor rd rs1 rs2) :=
  let f := encodeR_fields _ _ _ _ _ _; of_funct7 rfl ⟨f.1, f.2.2.1, f.2.2.2.2.2⟩ rfl rfl

theorem srl (rd rs1 rs2 : RegIdx) : Statement (.srl rd rs1 rs2) :=
  let f := encodeR_fields _ _ _ _ _ _; of_funct7 rfl ⟨f.1, f.2.2.1, f.2.2.2.2.2⟩ rfl rfl

theorem sra (rd rs1 rs2 : RegIdx) : Statement (.sra rd rs1 rs2) :=
  let f := encodeR_fields _ _ _ _ _ _; of_funct7 rfl ⟨f.1, f.2.2.1, f.2.2.2.2.2⟩ rfl rfl

theorem or (rd rs1 rs2 : RegIdx) : Statement (.or rd rs1 rs2) :=
  let f := encodeR_fields _ _ _ _ _ _; of_funct7 rfl ⟨f.1, f.2.2.1, f.2.2.2.2.2⟩ rfl rfl

theorem and (rd rs1 rs2 : RegIdx) : Statement (.and rd rs1 rs2) :=
  let f := encodeR_fields _ _ _ _ _ _; of_funct7 rfl ⟨f.1, f.2.2.1, f.2.2.2.2.2⟩ rfl rfl

theorem iret : Statement .iret :=
  by unfold Statement; decide

theorem halt : Statement .halt :=
  by unfold Statement; decide

theorem fence (rd rs1 : RegIdx) (imm : BitVec 12) : Statement (.fence rd rs1 imm) :=
  let f := encodeI_fields _ _ _ _ _; of_funct3 rfl ⟨f.1, f.2.2.1⟩ rfl rfl

theorem fencei (rd rs1 : RegIdx) (imm : BitVec 12) : Statement (.fencei rd rs1 imm) :=
  let f := encodeI_fields _ _ _ _ _; of_funct3 rfl ⟨f.1, f.2.2.1⟩ rfl rfl

theorem ecall : Statement .ecall :=
  by unfold Statement; decide

theorem ebreak : Statement .ebreak :=
  by unfold Statement; decide

theorem unimplemented (word : Word) : Statement (.unimplemented word) :=
  by simp [Statement, Row.holds, Instr.row]

end Sys2Proof.Laws.EncodesItsRow
end

