-- ==== Sys2Proof/Laws/Step.lean ====
section
/-! SUPPORT. What `exec` and `step` can do, said once: every instruction goes on, in one of eight shapes. -/

namespace Sys2Proof.Machine

/-- The shapes of an instruction's effect: what `exec i s = .next t` says of `t`. -/
inductive Shape (s : State) : Instr → State → Prop where
  /-- Writes one register and goes to the next instruction. -/
  | result {i : Instr} (rd : RegIdx) (v : Word) (hd : destOf i = some rd) (hs : storeOf s i = none)
      (hu : isUnimplemented i = false) (hi : i ≠ .iret) : Shape s i (s.writeResult rd v)
  | jal (rd : RegIdx) (imm : BitVec 21) : Shape s (.jal rd imm) (s.linkAndJump rd (s.jalTarget imm))
  | jalr (rd rs1 : RegIdx) (imm : BitVec 12) : Shape s (.jalr rd rs1 imm) (s.linkAndJump rd (s.jalrTarget rs1 imm))
  | halt : Shape s .halt (s.linkAndJump 0#5 (s.jalTarget 0#21))
  /-- A branch, with an even offset where the instruction is well-formed. -/
  | branch {i : Instr} (cond : Bool) (imm : BitVec 13) (he : i.wf = true → imm.getLsbD 0 = false)
      (hd : destOf i = none) (hs : storeOf s i = none) (hu : isUnimplemented i = false) (hi : i ≠ .iret) :
      Shape s i (s.branch cond imm)
  | store {i : Instr} (w : Width) (addr v : Word) (hd : destOf i = none)
      (hs : storeOf s i = some (w, align w addr, v)) (hu : isUnimplemented i = false) (hi : i ≠ .iret) :
      Shape s i (s.memWrite w addr v).advance
  | iret : Shape s .iret s.returnFromInterrupt
  /-- An unimplemented word: reported and skipped. -/
  | skip {i : Instr} (hd : destOf i = none) (hs : storeOf s i = none) (hu : isUnimplemented i = true)
      (hi : i ≠ .iret) : Shape s i (s.skipUnimplemented (encode i))

/-- A store's address is an aligned one. -/
theorem storeOf_aligned {s : State} {i : Instr} {w : Width} {a v : Word} (h : storeOf s i = some (w, a, v)) :
    ∃ addr, a = align w addr := by
  cases i <;> simp [storeOf] at h <;> obtain ⟨rfl, rfl, rfl⟩ := h <;> exact ⟨_, rfl⟩

/-- Every instruction goes on, in its shape. -/
theorem exec_shape (i : Instr) (s : State) : ∃ t, exec i s = .next t ∧ Shape s i t := by
  cases i with
  | lui rd imm => exact ⟨_, rfl, .result _ _ rfl rfl rfl (by simp)⟩
  | auipc rd imm => exact ⟨_, rfl, .result _ _ rfl rfl rfl (by simp)⟩
  | jal rd imm => exact ⟨_, rfl, .jal rd imm⟩
  | jalr rd rs1 imm => exact ⟨_, rfl, .jalr rd rs1 imm⟩
  | beq rs1 rs2 imm => exact ⟨_, rfl, .branch _ _ (fun h => by simpa [Instr.wf] using h) rfl rfl rfl (by simp)⟩
  | bne rs1 rs2 imm => exact ⟨_, rfl, .branch _ _ (fun h => by simpa [Instr.wf] using h) rfl rfl rfl (by simp)⟩
  | blt rs1 rs2 imm => exact ⟨_, rfl, .branch _ _ (fun h => by simpa [Instr.wf] using h) rfl rfl rfl (by simp)⟩
  | bge rs1 rs2 imm => exact ⟨_, rfl, .branch _ _ (fun h => by simpa [Instr.wf] using h) rfl rfl rfl (by simp)⟩
  | bltu rs1 rs2 imm => exact ⟨_, rfl, .branch _ _ (fun h => by simpa [Instr.wf] using h) rfl rfl rfl (by simp)⟩
  | bgeu rs1 rs2 imm => exact ⟨_, rfl, .branch _ _ (fun h => by simpa [Instr.wf] using h) rfl rfl rfl (by simp)⟩
  | lb rd rs1 imm => exact ⟨_, rfl, .result _ _ rfl rfl rfl (by simp)⟩
  | lh rd rs1 imm => exact ⟨_, rfl, .result _ _ rfl rfl rfl (by simp)⟩
  | lw rd rs1 imm => exact ⟨_, rfl, .result _ _ rfl rfl rfl (by simp)⟩
  | lbu rd rs1 imm => exact ⟨_, rfl, .result _ _ rfl rfl rfl (by simp)⟩
  | lhu rd rs1 imm => exact ⟨_, rfl, .result _ _ rfl rfl rfl (by simp)⟩
  | sb rs1 rs2 imm => exact ⟨_, rfl, .store _ _ _ rfl rfl rfl (by simp)⟩
  | sh rs1 rs2 imm => exact ⟨_, rfl, .store _ _ _ rfl rfl rfl (by simp)⟩
  | sw rs1 rs2 imm => exact ⟨_, rfl, .store _ _ _ rfl rfl rfl (by simp)⟩
  | addi rd rs1 imm => exact ⟨_, rfl, .result _ _ rfl rfl rfl (by simp)⟩
  | slti rd rs1 imm => exact ⟨_, rfl, .result _ _ rfl rfl rfl (by simp)⟩
  | sltiu rd rs1 imm => exact ⟨_, rfl, .result _ _ rfl rfl rfl (by simp)⟩
  | xori rd rs1 imm => exact ⟨_, rfl, .result _ _ rfl rfl rfl (by simp)⟩
  | ori rd rs1 imm => exact ⟨_, rfl, .result _ _ rfl rfl rfl (by simp)⟩
  | andi rd rs1 imm => exact ⟨_, rfl, .result _ _ rfl rfl rfl (by simp)⟩
  | slli rd rs1 shamt => exact ⟨_, rfl, .result _ _ rfl rfl rfl (by simp)⟩
  | srli rd rs1 shamt => exact ⟨_, rfl, .result _ _ rfl rfl rfl (by simp)⟩
  | srai rd rs1 shamt => exact ⟨_, rfl, .result _ _ rfl rfl rfl (by simp)⟩
  | add rd rs1 rs2 => exact ⟨_, rfl, .result _ _ rfl rfl rfl (by simp)⟩
  | sub rd rs1 rs2 => exact ⟨_, rfl, .result _ _ rfl rfl rfl (by simp)⟩
  | sll rd rs1 rs2 => exact ⟨_, rfl, .result _ _ rfl rfl rfl (by simp)⟩
  | slt rd rs1 rs2 => exact ⟨_, rfl, .result _ _ rfl rfl rfl (by simp)⟩
  | sltu rd rs1 rs2 => exact ⟨_, rfl, .result _ _ rfl rfl rfl (by simp)⟩
  | xor rd rs1 rs2 => exact ⟨_, rfl, .result _ _ rfl rfl rfl (by simp)⟩
  | srl rd rs1 rs2 => exact ⟨_, rfl, .result _ _ rfl rfl rfl (by simp)⟩
  | sra rd rs1 rs2 => exact ⟨_, rfl, .result _ _ rfl rfl rfl (by simp)⟩
  | or rd rs1 rs2 => exact ⟨_, rfl, .result _ _ rfl rfl rfl (by simp)⟩
  | and rd rs1 rs2 => exact ⟨_, rfl, .result _ _ rfl rfl rfl (by simp)⟩
  | iret => exact ⟨_, rfl, .iret⟩
  | halt => exact ⟨_, rfl, .halt⟩
  | fence rd rs1 imm => exact ⟨_, rfl, .skip rfl rfl rfl (by simp)⟩
  | fencei rd rs1 imm => exact ⟨_, rfl, .skip rfl rfl rfl (by simp)⟩
  | ecall => exact ⟨_, rfl, .skip rfl rfl rfl (by simp)⟩
  | ebreak => exact ⟨_, rfl, .skip rfl rfl rfl (by simp)⟩
  | unimplemented word => exact ⟨_, rfl, .skip rfl rfl rfl (by simp)⟩

/-- The state an instruction goes on to, and its shape. -/
theorem shape_of_exec {i : Instr} {s t : State} (h : exec i s = .next t) : Shape s i t := by
  obtain ⟨t', h', hs⟩ := exec_shape i s
  rw [h] at h'
  injection h' with h'
  exact h' ▸ hs

/-- A step is the shape of its instruction after the interrupt check, then what ends the step. -/
theorem step_cases {s t : State} (h : step s = .next t) :
    ∃ u, Shape s.interruptCheck s.currentInstr u ∧ t = u.finishStep s.currentInstr := by
  obtain ⟨u, hu, hs⟩ := exec_shape s.currentInstr s.interruptCheck
  rw [step, hu] at h
  exact ⟨u, hs, by injection h with h; exact h.symm⟩

/-! ## Fields after a step's end -/

theorem isCounted_iff (i : Instr) : isCounted i = true ↔ i ≠ .iret := by simp [isCounted]

theorem State.finishStep_counted {i : Instr} (h : i ≠ .iret) (s : State) :
    s.finishStep i = s.resetX0.scheduleInterrupt := by
  rw [State.finishStep, if_pos ((isCounted_iff i).mpr h)]

@[simp] theorem State.finishStep_iret (s : State) : s.finishStep .iret = s := rfl

@[simp] theorem State.finishStep_config (s : State) (i : Instr) : (s.finishStep i).config = s.config := by
  unfold State.finishStep; split <;> simp
@[simp] theorem State.finishStep_pc (s : State) (i : Instr) : (s.finishStep i).pc = s.pc := by
  unfold State.finishStep; split <;> simp
@[simp] theorem State.finishStep_savedReturnAddress (s : State) (i : Instr) : (s.finishStep i).savedReturnAddress = s.savedReturnAddress := by
  unfold State.finishStep; split <;> simp
@[simp] theorem State.finishStep_mem (s : State) (i : Instr) : (s.finishStep i).mem = s.mem := by
  unfold State.finishStep; split <;> simp
@[simp] theorem State.finishStep_serialOut (s : State) (i : Instr) : (s.finishStep i).serialOut = s.serialOut := by
  unfold State.finishStep; split <;> simp
@[simp] theorem State.finishStep_diagOut (s : State) (i : Instr) : (s.finishStep i).diagOut = s.diagOut := by
  unfold State.finishStep; split <;> simp

@[simp] theorem State.readReg_scheduleInterrupt (s : State) (r : RegIdx) : s.scheduleInterrupt.readReg r = s.readReg r :=
  State.readReg_congr (by simp) r

@[simp] theorem State.readReg_finishStep (s : State) (i : Instr) (r : RegIdx) : (s.finishStep i).readReg r = s.readReg r := by
  unfold State.finishStep; split <;> simp

@[simp] theorem State.readReg_interruptCheck (s : State) (r : RegIdx) : s.interruptCheck.readReg r = s.readReg r :=
  State.readReg_congr (by simp) r

/-! ## Fields of a shape -/

section
variable {s t : State} {i : Instr} (h : Shape s i t)
include h

theorem Shape.config_eq : t.config = s.config := by cases h <;> simp

theorem Shape.pending_eq : t.pending = s.pending := by cases h <;> simp

theorem Shape.savedReturnAddress_eq : t.savedReturnAddress = s.savedReturnAddress := by cases h <;> simp

theorem Shape.icount_eq : t.icount = s.icount := by cases h <;> simp

theorem Shape.x0_eq : t.regs[0] = s.regs[0] := by
  cases h <;> simp

/-- An instruction keeps the memory's canonical form. -/
theorem Shape.mem_wf (hm : s.mem.wf) : t.mem.wf := by
  cases h
  case store => simpa using State.memWrite_wf hm _ _ _
  all_goals simpa using hm

/-- An instruction lists no byte outside the store. -/
theorem Shape.mem_inside (hm : ∀ c ∈ s.mem, c.1 < s.config.memSize) : ∀ c ∈ t.mem, c.1 < s.config.memSize := by
  cases h
  case store => simpa using State.memWrite_inside hm _ _ _
  all_goals simpa using hm

end

end Sys2Proof.Machine
end

