-- ==== Sys2Proof/Tests/Slice0.lean ====
section
/-! SUPPORT. The model's own tests. Decoded words are written out from the fields of 30_encoding.md; expected steps
come from the vectors of spec/95_test_vectors.md, each named in its docstring; then a witness for the hypotheses of
every statement that has some. -/

namespace Sys2Proof.Tests

open Sys2Proof Sys2Proof.Machine Sys2Proof.Claims

/-- The next state, where there is one. -/
def next? : Host.Outcome State Fault Refusal → Option State
  | .next s => some s
  | .fault _ => none
  | .refused _ => none

theorem next_of {o : Host.Outcome State Fault Refusal} {t : State} (h : next? o = some t) : o = .next t := by
  cases o with
  | next s => exact congrArg Host.Outcome.next (Option.some.inj h)
  | fault r => exact nomatch h
  | refused r => exact nomatch h

/-- The vectors' parameters, with the handler address the interrupt vectors take. -/
def testConfig : Config := ⟨0x100000, 0x200, 1000, .alignDown⟩

/-- A machine just constructed, but for its pc, some registers and some words of memory. -/
def st (pc : Word) (regs : List (RegIdx × Word)) (words : List (Nat × Word)) : State :=
  { regs.foldl (fun s r => s.writeReg r.1 r.2)
      (State.init testConfig (words.foldl (fun m w => m.writeWord w.1 w.2) [])) with pc := pc }

/-! ## Well-formedness: a term for each check, which the check refuses -/

theorem test_wf_refuses_odd_branch_offsets :
    (Instr.beq 1#5 2#5 1#13).wf = false ∧ (Instr.bne 1#5 2#5 0x1FFF#13).wf = false ∧
    (Instr.blt 1#5 2#5 5#13).wf = false ∧ (Instr.bge 1#5 2#5 7#13).wf = false ∧
    (Instr.bltu 1#5 2#5 0x1001#13).wf = false ∧ (Instr.bgeu 1#5 2#5 3#13).wf = false := by
  decide

theorem test_wf_refuses_odd_jal_offset : (Instr.jal 1#5 3#21).wf = false := by decide

theorem test_wf_refuses_the_halt_word_as_jal :
    (Instr.jal 0#5 0#21).wf = false ∧ (Instr.jal 1#5 0#21).wf = true ∧ (Instr.jal 0#5 2#21).wf = true := by
  decide

theorem test_wf_refuses_unimplemented_words_of_a_row :
    (Instr.unimplemented 0x002081B3#32).wf = false ∧ (Instr.unimplemented 0xFFFFFFFF#32).wf = false ∧
    (Instr.unimplemented 0x0000100F#32).wf = false ∧ (Instr.unimplemented 0x022081B3#32).wf = true := by
  decide

/-! ## The opcode table -/

/-- A word that lies in two rows lies in HALT's and JAL's: the fixed bits of any other two rows differ. -/
theorem test_rows_disjoint :
    namedRows.Pairwise (fun r q => r.value &&& q.mask ≠ q.value &&& r.mask ∨
      (r.mnemonic = "JAL" ∧ q.mnemonic = "HALT__JAL_x0__0")) := by
  decide

/-! ## Decoding: words written out field by field (R102 to R115) -/

theorem test_decode_upper :
    decode 0b00010010001101000101_00101_0110111#32 = .lui 5#5 0x12345#20 ∧
    decode 0b11111111111111111111_00110_0010111#32 = .auipc 6#5 0xFFFFF#20 := by
  decide

theorem test_decode_jumps :
    decode 0b1_1111111110_1_11111111_00001_1101111#32 = .jal 1#5 0x1FFFFC#21 ∧
    decode 0b0_1001101111_1_10101011_11111_1101111#32 = .jal 31#5 0x0ABCDE#21 ∧
    decode 0b0_0000000000_0_00000000_00000_1101111#32 = .halt ∧
    decode 0b000000000011_00101_000_00001_1100111#32 = .jalr 1#5 5#5 3#12 := by
  decide

theorem test_decode_branches :
    decode 0b0_000000_00010_00001_000_1000_0_1100011#32 = .beq 1#5 2#5 0x0010#13 ∧
    decode 0b1_111111_00010_00001_001_1100_1_1100011#32 = .bne 1#5 2#5 0x1FF8#13 ∧
    decode 0b0_000000_00010_00001_100_0110_0_1100011#32 = .blt 1#5 2#5 0x000C#13 ∧
    decode 0b0_010101_00010_00001_101_1110_1_1100011#32 = .bge 1#5 2#5 0x0ABC#13 ∧
    decode 0b1_000000_00010_00001_110_0000_0_1100011#32 = .bltu 1#5 2#5 0x1000#13 ∧
    decode 0b0_111111_00010_00001_111_1111_1_1100011#32 = .bgeu 1#5 2#5 0x0FFE#13 := by
  decide

theorem test_decode_loads :
    decode 0b000000000001_00001_000_00011_0000011#32 = .lb 3#5 1#5 0x001#12 ∧
    decode 0b000000000010_00001_001_00011_0000011#32 = .lh 3#5 1#5 0x002#12 ∧
    decode 0b111111111100_00001_010_00011_0000011#32 = .lw 3#5 1#5 0xFFC#12 ∧
    decode 0b000000000011_00001_100_00011_0000011#32 = .lbu 3#5 1#5 0x003#12 ∧
    decode 0b100000000000_00001_101_00011_0000011#32 = .lhu 3#5 1#5 0x800#12 := by
  decide

theorem test_decode_stores :
    decode 0b0000000_00010_00001_000_00011_0100011#32 = .sb 1#5 2#5 0x003#12 ∧
    decode 0b0111101_00010_00001_001_00101_0100011#32 = .sh 1#5 2#5 0x7A5#12 ∧
    decode 0b1111111_00010_00001_010_11100_0100011#32 = .sw 1#5 2#5 0xFFC#12 := by
  decide

theorem test_decode_alu_immediate :
    decode 0b100000000000_00001_000_00011_0010011#32 = .addi 3#5 1#5 0x800#12 ∧
    decode 0b111111111111_00001_010_00011_0010011#32 = .slti 3#5 1#5 0xFFF#12 ∧
    decode 0b000000000001_00001_011_00011_0010011#32 = .sltiu 3#5 1#5 0x001#12 ∧
    decode 0b010110100101_00001_100_00011_0010011#32 = .xori 3#5 1#5 0x5A5#12 ∧
    decode 0b000011110000_00001_110_00011_0010011#32 = .ori 3#5 1#5 0x0F0#12 ∧
    decode 0b000011111111_00001_111_00011_0010011#32 = .andi 3#5 1#5 0x0FF#12 ∧
    decode 0b0000000_11111_00001_001_00011_0010011#32 = .slli 3#5 1#5 31#5 ∧
    decode 0b0000000_00100_00001_101_00011_0010011#32 = .srli 3#5 1#5 4#5 ∧
    decode 0b0100000_00100_00001_101_00011_0010011#32 = .srai 3#5 1#5 4#5 := by
  decide

theorem test_decode_alu_register :
    decode 0b0000000_00010_00001_000_00011_0110011#32 = .add 3#5 1#5 2#5 ∧
    decode 0b0100000_00010_00001_000_00011_0110011#32 = .sub 3#5 1#5 2#5 ∧
    decode 0b0000000_00010_00001_001_00011_0110011#32 = .sll 3#5 1#5 2#5 ∧
    decode 0b0000000_00010_00001_010_00011_0110011#32 = .slt 3#5 1#5 2#5 ∧
    decode 0b0000000_00010_00001_011_00011_0110011#32 = .sltu 3#5 1#5 2#5 ∧
    decode 0b0000000_00010_00001_100_00011_0110011#32 = .xor 3#5 1#5 2#5 ∧
    decode 0b0000000_00010_00001_101_00011_0110011#32 = .srl 3#5 1#5 2#5 ∧
    decode 0b0100000_00010_00001_101_00011_0110011#32 = .sra 3#5 1#5 2#5 ∧
    decode 0b0000000_00010_00001_110_00011_0110011#32 = .or 3#5 1#5 2#5 ∧
    decode 0b0000000_00010_00001_111_00011_0110011#32 = .and 3#5 1#5 2#5 := by
  decide

theorem test_decode_special :
    decode 0b11111111111111111111111111111111#32 = .iret ∧
    decode 0b000011111111_00000_000_00000_0001111#32 = .fence 0#5 0#5 0x0FF#12 ∧
    decode 0b000000000000_00000_001_00000_0001111#32 = .fencei 0#5 0#5 0#12 ∧
    decode 0b000000000000_00000_000_00000_1110011#32 = .ecall ∧
    decode 0b000000000001_00000_000_00000_1110011#32 = .ebreak := by
  decide

theorem test_decode_unimplemented :
    decode 0b00000000000000000000000000000000#32 = .unimplemented 0#32 ∧
    decode 0b0000001_00010_00001_000_00011_0110011#32 = .unimplemented 0x022081B3#32 ∧
    decode 0b0100000_00000_00000_001_00000_0010011#32 = .unimplemented 0x40001013#32 ∧
    decode 0b000000000000_00001_001_00001_1100111#32 = .unimplemented 0x000090E7#32 ∧
    decode 0b000000000000_00001_011_00011_0000011#32 = .unimplemented 0x0000B183#32 ∧
    decode 0b0000000_00010_00001_011_00000_0100011#32 = .unimplemented 0x0020B023#32 ∧
    decode 0b0_000000_00010_00001_010_0000_0_1100011#32 = .unimplemented 0x0020A063#32 ∧
    decode 0b001100000010_00000_000_00000_1110011#32 = .unimplemented 0x30200073#32 := by
  decide

/-! ## One step: vectors of spec/95_test_vectors.md -/

/-- VU1: lui x5, 0x12345. -/
theorem test_lui :
    next? (step (st 0x100 [] [(0x100, 0x123452B7)])) =
      some ({ st 0x104 [(5, 0x12345000)] [(0x100, 0x123452B7)] with icount := 1 }) := by decide

/-- VU3: lui x0, 0x12345. -/
theorem test_lui_x0 :
    next? (step (st 0x100 [] [(0x100, 0x12345037)])) =
      some ({ st 0x104 [] [(0x100, 0x12345037)] with icount := 1 }) := by decide

/-- VU4: auipc x5, 0x1. -/
theorem test_auipc :
    next? (step (st 0x100 [] [(0x100, 0x1297)])) =
      some ({ st 0x104 [(5, 0x1100)] [(0x100, 0x1297)] with icount := 1 }) := by decide

/-- VU5: auipc x6, 0xFFFFF. -/
theorem test_auipc_wraps :
    next? (step (st 0x100 [] [(0x100, 0xFFFFF317)])) =
      some ({ st 0x104 [(6, 0xFFFFF100)] [(0x100, 0xFFFFF317)] with icount := 1 }) := by decide

/-- VJ2: jal x1, -4. -/
theorem test_jal_backwards :
    next? (step (st 0x100 [] [(0x100, 0xFFDFF0EF)])) =
      some ({ st 0xFC [(1, 0x104)] [(0x100, 0xFFDFF0EF)] with icount := 1 }) := by decide

/-- VJ4: jal x1, -256. -/
theorem test_jal_wraps :
    next? (step (st 0x40 [] [(0x40, 0xF01FF0EF)])) =
      some ({ st 0xFFFFFF40 [(1, 0x44)] [(0x40, 0xF01FF0EF)] with icount := 1 }) := by decide

/-- VJ6: jalr x1, 3(x5). -/
theorem test_jalr_clears_bit_0 :
    next? (step (st 0x100 [(5, 0x200)] [(0x100, 0x3280E7)])) =
      some ({ st 0x202 [(5, 0x200), (1, 0x104)] [(0x100, 0x3280E7)] with icount := 1 }) := by decide

/-- VJ7: jalr x1, 0(x1). -/
theorem test_jalr_reads_before_it_writes :
    next? (step (st 0x100 [(1, 0x300)] [(0x100, 0x80E7)])) =
      some ({ st 0x300 [(1, 0x104)] [(0x100, 0x80E7)] with icount := 1 }) := by decide

/-- VJ3: jal x0, 0 (HALT word). -/
theorem test_halt :
    next? (step (st 0x100 [] [(0x100, 0x6F)])) =
      some ({ st 0x100 [] [(0x100, 0x6F)] with icount := 1 }) := by decide

/-- VJ11: beq x1, x2, 16 (not taken). -/
theorem test_beq_not_taken :
    next? (step (st 0x100 [(1, 0x7), (2, 0x8)] [(0x100, 0x208863)])) =
      some ({ st 0x104 [(1, 0x7), (2, 0x8)] [(0x100, 0x208863)] with icount := 1 }) := by decide

/-- VJ22: beq x0, x0, -4096 (min offset). -/
theorem test_beq_least_offset :
    next? (step (st 0x2000 [] [(0x2000, 0x80000063)])) =
      some ({ st 0x1000 [] [(0x2000, 0x80000063)] with icount := 1 }) := by decide

/-- VJ12: bne x1, x2, -8 (taken). -/
theorem test_bne :
    next? (step (st 0x100 [(1, 0x7), (2, 0x8)] [(0x100, 0xFE209CE3)])) =
      some ({ st 0xF8 [(1, 0x7), (2, 0x8)] [(0x100, 0xFE209CE3)] with icount := 1 }) := by decide

/-- VJ13: bne x1, x1, -8 (not taken). -/
theorem test_bne_not_taken :
    next? (step (st 0x100 [(1, 0x7)] [(0x100, 0xFE109CE3)])) =
      some ({ st 0x104 [(1, 0x7)] [(0x100, 0xFE109CE3)] with icount := 1 }) := by decide

/-- VJ14: blt x1, x2, 12 (-1 < 1). -/
theorem test_blt :
    next? (step (st 0x100 [(1, 0xFFFFFFFF), (2, 0x1)] [(0x100, 0x20C663)])) =
      some ({ st 0x10C [(1, 0xFFFFFFFF), (2, 0x1)] [(0x100, 0x20C663)] with icount := 1 }) := by decide

/-- VJ15: blt x1, x2, 12 (1 < -1 false). -/
theorem test_blt_not_taken :
    next? (step (st 0x100 [(1, 0x1), (2, 0xFFFFFFFF)] [(0x100, 0x20C663)])) =
      some ({ st 0x104 [(1, 0x1), (2, 0xFFFFFFFF)] [(0x100, 0x20C663)] with icount := 1 }) := by decide

/-- VJ16: bge x1, x2, 12 (equal). -/
theorem test_bge_equal :
    next? (step (st 0x100 [(1, 0x80000000), (2, 0x80000000)] [(0x100, 0x20D663)])) =
      some ({ st 0x10C [(1, 0x80000000), (2, 0x80000000)] [(0x100, 0x20D663)] with icount := 1 }) := by decide

/-- VJ17: bge x1, x2, 12 (MIN >= 0 false). -/
theorem test_bge_not_taken :
    next? (step (st 0x100 [(1, 0x80000000), (2, 0x0)] [(0x100, 0x20D663)])) =
      some ({ st 0x104 [(1, 0x80000000), (2, 0x0)] [(0x100, 0x20D663)] with icount := 1 }) := by decide

/-- VJ18: bltu x1, x2, 12 (1 <u 0xFFFFFFFF). -/
theorem test_bltu :
    next? (step (st 0x100 [(1, 0x1), (2, 0xFFFFFFFF)] [(0x100, 0x20E663)])) =
      some ({ st 0x10C [(1, 0x1), (2, 0xFFFFFFFF)] [(0x100, 0x20E663)] with icount := 1 }) := by decide

/-- VJ19: bltu x1, x2, 12 (0xFFFFFFFF <u 1 false). -/
theorem test_bltu_not_taken :
    next? (step (st 0x100 [(1, 0xFFFFFFFF), (2, 0x1)] [(0x100, 0x20E663)])) =
      some ({ st 0x104 [(1, 0xFFFFFFFF), (2, 0x1)] [(0x100, 0x20E663)] with icount := 1 }) := by decide

/-- VJ20: bgeu x1, x0, 12 (always). -/
theorem test_bgeu :
    next? (step (st 0x100 [(1, 0x0)] [(0x100, 0xF663)])) =
      some ({ st 0x10C [(1, 0x0)] [(0x100, 0xF663)] with icount := 1 }) := by decide

/-- VJ21: bgeu x0, x1, 12 (0 >=u 5 false). -/
theorem test_bgeu_not_taken :
    next? (step (st 0x100 [(1, 0x5)] [(0x100, 0x107663)])) =
      some ({ st 0x104 [(1, 0x5)] [(0x100, 0x107663)] with icount := 1 }) := by decide

/-- VM2: lb x3, 1(x1). -/
theorem test_lb :
    next? (step (st 0x100 [(1, 0x1000)] [(0x100, 0x108183), (0x1000, 0xAABBCCDD)])) =
      some ({ st 0x104 [(1, 0x1000), (3, 0xFFFFFFCC)] [(0x100, 0x108183), (0x1000, 0xAABBCCDD)] with
        icount := 1 }) := by
  decide

/-- VM4: lh x3, 2(x1). -/
theorem test_lh :
    next? (step (st 0x100 [(1, 0x1000)] [(0x100, 0x209183), (0x1000, 0xAABBCCDD)])) =
      some ({ st 0x104 [(1, 0x1000), (3, 0xFFFFAABB)] [(0x100, 0x209183), (0x1000, 0xAABBCCDD)] with
        icount := 1 }) := by
  decide

/-- VM5: lh x3, 1(x1) (misaligned). -/
theorem test_lh_misaligned :
    next? (step (st 0x100 [(1, 0x1000)] [(0x100, 0x109183), (0x1000, 0xAABBCCDD)])) =
      some ({ st 0x104 [(1, 0x1000), (3, 0xFFFFCCDD)] [(0x100, 0x109183), (0x1000, 0xAABBCCDD)] with
        icount := 1 }) := by
  decide

/-- VM9: lw x1, 0(x1) (rd = rs1). -/
theorem test_lw_into_its_base :
    next? (step (st 0x100 [(1, 0x1000)] [(0x100, 0xA083), (0x1000, 0xAABBCCDD)])) =
      some ({ st 0x104 [(1, 0xAABBCCDD)] [(0x100, 0xA083), (0x1000, 0xAABBCCDD)] with icount := 1 }) := by decide

/-- VM10: lw x3, -4(x1) (ea wraps, OOR). -/
theorem test_lw_out_of_range :
    next? (step (st 0x100 [(1, 0x0), (3, 0x55)] [(0x100, 0xFFC0A183)])) =
      some ({ st 0x104 [(1, 0x0), (3, 0x0)] [(0x100, 0xFFC0A183)] with icount := 1 }) := by decide

/-- VM3: lbu x3, 3(x1). -/
theorem test_lbu :
    next? (step (st 0x100 [(1, 0x1000)] [(0x100, 0x30C183), (0x1000, 0xAABBCCDD)])) =
      some ({ st 0x104 [(1, 0x1000), (3, 0xAA)] [(0x100, 0x30C183), (0x1000, 0xAABBCCDD)] with icount := 1 }) := by
  decide

/-- VM12: lbu x3, 0(x1) at MEM_SIZE-1. -/
theorem test_lbu_last_byte :
    next? (step (st 0x100 [(1, 0xFFFFF), (3, 0x55)] [(0x100, 0xC183)])) =
      some ({ st 0x104 [(1, 0xFFFFF), (3, 0x0)] [(0x100, 0xC183)] with icount := 1 }) := by decide

/-- VM6: lhu x3, 0(x1). -/
theorem test_lhu :
    next? (step (st 0x100 [(1, 0x1000)] [(0x100, 0xD183), (0x1000, 0xAABBCCDD)])) =
      some ({ st 0x104 [(1, 0x1000), (3, 0xCCDD)] [(0x100, 0xD183), (0x1000, 0xAABBCCDD)] with icount := 1 }) := by
  decide

/-- VM18: sb x2, 3(x1). -/
theorem test_sb :
    next? (step (st 0x100 [(1, 0x1000), (2, 0x12345678)] [(0x100, 0x2081A3), (0x1000, 0xAABBCCDD)])) =
      some ({ st 0x104 [(1, 0x1000), (2, 0x12345678)] [(0x100, 0x2081A3), (0x1000, 0x78BBCCDD)] with
        icount := 1 }) := by
  decide

/-- VM25: sb x2, 0(x1) to SERIAL_ADDR. -/
theorem test_sb_serial :
    next? (step (st 0x100 [(1, 0x9FC00), (2, 0x41)] [(0x100, 0x208023)])) =
      some ({ st 0x104 [(1, 0x9FC00), (2, 0x41)] [(0x100, 0x208023)] with icount := 1, serialOut := [0x41] }) := by
  decide

/-- VM20: sh x2, 3(x1) (misaligned). -/
theorem test_sh_misaligned :
    next? (step (st 0x100 [(1, 0x1000), (2, 0x12345678)] [(0x100, 0x2091A3), (0x1000, 0xAABBCCDD)])) =
      some ({ st 0x104 [(1, 0x1000), (2, 0x12345678)] [(0x100, 0x2091A3), (0x1000, 0x5678CCDD)] with
        icount := 1 }) := by
  decide

/-- VM27: sh x2, 1(x1) to 0x9FC01. -/
theorem test_sh_serial_misaligned :
    next? (step (st 0x100 [(1, 0x9FC00), (2, 0x142)] [(0x100, 0x2090A3)])) =
      some ({ st 0x104 [(1, 0x9FC00), (2, 0x142)] [(0x100, 0x2090A3)] with icount := 1, serialOut := [0x42] }) := by
  decide

/-- VM21: sw x2, 2(x1) (misaligned). -/
theorem test_sw_misaligned :
    next? (step (st 0x100 [(1, 0x1000), (2, 0x12345678)] [(0x100, 0x20A123), (0x1000, 0xAABBCCDD)])) =
      some ({ st 0x104 [(1, 0x1000), (2, 0x12345678)] [(0x100, 0x20A123), (0x1000, 0x12345678)] with
        icount := 1 }) := by
  decide

/-- VM24: sw x2, 0(x1) to EXP. -/
theorem test_sw_expansion :
    next? (step (st 0x100 [(1, 0x90000), (2, 0xFF)] [(0x100, 0x20A023)])) =
      some ({ st 0x104 [(1, 0x90000), (2, 0xFF)] [(0x100, 0x20A023)] with icount := 1 }) := by decide

/-- VI3: addi x1, x1, 1 (overflow). -/
theorem test_addi_wraps :
    next? (step (st 0x100 [(1, 0x7FFFFFFF)] [(0x100, 0x108093)])) =
      some ({ st 0x104 [(1, 0x80000000)] [(0x100, 0x108093)] with icount := 1 }) := by decide

/-- VI4: addi x1, x0, -2048. -/
theorem test_addi_least_immediate :
    next? (step (st 0x100 [] [(0x100, 0x80000093)])) =
      some ({ st 0x104 [(1, 0xFFFFF800)] [(0x100, 0x80000093)] with icount := 1 }) := by decide

/-- VI6: slti x3, x1, -1. -/
theorem test_slti :
    next? (step (st 0x100 [(1, 0xFFFFFFFE)] [(0x100, 0xFFF0A193)])) =
      some ({ st 0x104 [(1, 0xFFFFFFFE), (3, 0x1)] [(0x100, 0xFFF0A193)] with icount := 1 }) := by decide

/-- VI7: slti x3, x1, -1 (false). -/
theorem test_slti_false :
    next? (step (st 0x100 [(1, 0x0)] [(0x100, 0xFFF0A193)])) =
      some ({ st 0x104 [(1, 0x0), (3, 0x0)] [(0x100, 0xFFF0A193)] with icount := 1 }) := by decide

/-- VI8: sltiu x3, x1, -1. -/
theorem test_sltiu_extends_its_immediate :
    next? (step (st 0x100 [(1, 0x5)] [(0x100, 0xFFF0B193)])) =
      some ({ st 0x104 [(1, 0x5), (3, 0x1)] [(0x100, 0xFFF0B193)] with icount := 1 }) := by decide

/-- VI9: sltiu x3, x1, 1 (seqz). -/
theorem test_sltiu_seqz :
    next? (step (st 0x100 [(1, 0x0)] [(0x100, 0x10B193)])) =
      some ({ st 0x104 [(1, 0x0), (3, 0x1)] [(0x100, 0x10B193)] with icount := 1 }) := by decide

/-- VI10: xori x3, x1, -1 (not). -/
theorem test_xori :
    next? (step (st 0x100 [(1, 0x12345678)] [(0x100, 0xFFF0C193)])) =
      some ({ st 0x104 [(1, 0x12345678), (3, 0xEDCBA987)] [(0x100, 0xFFF0C193)] with icount := 1 }) := by decide

/-- VI12: ori x3, x1, -2048. -/
theorem test_ori :
    next? (step (st 0x100 [(1, 0x0)] [(0x100, 0x8000E193)])) =
      some ({ st 0x104 [(1, 0x0), (3, 0xFFFFF800)] [(0x100, 0x8000E193)] with icount := 1 }) := by decide

/-- VI14: andi x3, x1, -2048. -/
theorem test_andi :
    next? (step (st 0x100 [(1, 0x12345678)] [(0x100, 0x8000F193)])) =
      some ({ st 0x104 [(1, 0x12345678), (3, 0x12345000)] [(0x100, 0x8000F193)] with icount := 1 }) := by decide

/-- VI16: slli x3, x1, 31. -/
theorem test_slli :
    next? (step (st 0x100 [(1, 0x3)] [(0x100, 0x1F09193)])) =
      some ({ st 0x104 [(1, 0x3), (3, 0x80000000)] [(0x100, 0x1F09193)] with icount := 1 }) := by decide

/-- VI18: srli x3, x1, 4. -/
theorem test_srli :
    next? (step (st 0x100 [(1, 0x80000000)] [(0x100, 0x40D193)])) =
      some ({ st 0x104 [(1, 0x80000000), (3, 0x8000000)] [(0x100, 0x40D193)] with icount := 1 }) := by decide

/-- VI20: srai x3, x1, 4. -/
theorem test_srai :
    next? (step (st 0x100 [(1, 0x80000000)] [(0x100, 0x4040D193)])) =
      some ({ st 0x104 [(1, 0x80000000), (3, 0xF8000000)] [(0x100, 0x4040D193)] with icount := 1 }) := by decide

/-- VI21: srai x3, x1, 31. -/
theorem test_srai_positive :
    next? (step (st 0x100 [(1, 0x7FFFFFFF)] [(0x100, 0x41F0D193)])) =
      some ({ st 0x104 [(1, 0x7FFFFFFF), (3, 0x0)] [(0x100, 0x41F0D193)] with icount := 1 }) := by decide

/-- VR2: add x3, x1, x2 (wrap). -/
theorem test_add_wraps :
    next? (step (st 0x100 [(1, 0xFFFFFFFF), (2, 0x1)] [(0x100, 0x2081B3)])) =
      some ({ st 0x104 [(1, 0xFFFFFFFF), (2, 0x1), (3, 0x0)] [(0x100, 0x2081B3)] with icount := 1 }) := by decide

/-- VR3: add x1, x1, x1. -/
theorem test_add_into_its_source :
    next? (step (st 0x100 [(1, 0x40000000)] [(0x100, 0x1080B3)])) =
      some ({ st 0x104 [(1, 0x80000000)] [(0x100, 0x1080B3)] with icount := 1 }) := by decide

/-- VR4: sub x3, x1, x2. -/
theorem test_sub :
    next? (step (st 0x100 [(1, 0x3), (2, 0x5)] [(0x100, 0x402081B3)])) =
      some ({ st 0x104 [(1, 0x3), (2, 0x5), (3, 0xFFFFFFFE)] [(0x100, 0x402081B3)] with icount := 1 }) := by decide

/-- VR5: sub x3, x1, x2 (MIN - 1). -/
theorem test_sub_least :
    next? (step (st 0x100 [(1, 0x80000000), (2, 0x1)] [(0x100, 0x402081B3)])) =
      some ({ st 0x104 [(1, 0x80000000), (2, 0x1), (3, 0x7FFFFFFF)] [(0x100, 0x402081B3)] with icount := 1 }) := by
  decide

/-- VR6: sll x3, x1, x2 (amount 33). -/
theorem test_sll_amount_33 :
    next? (step (st 0x100 [(1, 0x1), (2, 0x21)] [(0x100, 0x2091B3)])) =
      some ({ st 0x104 [(1, 0x1), (2, 0x21), (3, 0x2)] [(0x100, 0x2091B3)] with icount := 1 }) := by decide

/-- VR7: sll x3, x1, x2 (amount 32). -/
theorem test_sll_amount_32 :
    next? (step (st 0x100 [(1, 0x12345678), (2, 0x20)] [(0x100, 0x2091B3)])) =
      some ({ st 0x104 [(1, 0x12345678), (2, 0x20), (3, 0x12345678)] [(0x100, 0x2091B3)] with icount := 1 }) := by
  decide

/-- VR8: slt x3, x1, x2. -/
theorem test_slt :
    next? (step (st 0x100 [(1, 0xFFFFFFFF), (2, 0x1)] [(0x100, 0x20A1B3)])) =
      some ({ st 0x104 [(1, 0xFFFFFFFF), (2, 0x1), (3, 0x1)] [(0x100, 0x20A1B3)] with icount := 1 }) := by decide

/-- VR9: slt x3, x1, x1. -/
theorem test_slt_false :
    next? (step (st 0x100 [(1, 0xFFFFFFFF)] [(0x100, 0x10A1B3)])) =
      some ({ st 0x104 [(1, 0xFFFFFFFF), (3, 0x0)] [(0x100, 0x10A1B3)] with icount := 1 }) := by decide

/-- VR10: sltu x3, x1, x2. -/
theorem test_sltu_false :
    next? (step (st 0x100 [(1, 0xFFFFFFFF), (2, 0x1)] [(0x100, 0x20B1B3)])) =
      some ({ st 0x104 [(1, 0xFFFFFFFF), (2, 0x1), (3, 0x0)] [(0x100, 0x20B1B3)] with icount := 1 }) := by decide

/-- VR11: sltu x3, x0, x2 (snez). -/
theorem test_sltu :
    next? (step (st 0x100 [(2, 0x9)] [(0x100, 0x2031B3)])) =
      some ({ st 0x104 [(2, 0x9), (3, 0x1)] [(0x100, 0x2031B3)] with icount := 1 }) := by decide

/-- VR12: xor x3, x1, x2. -/
theorem test_xor :
    next? (step (st 0x100 [(1, 0xFF00FF00), (2, 0xFF00FF0)] [(0x100, 0x20C1B3)])) =
      some ({ st 0x104 [(1, 0xFF00FF00), (2, 0xFF00FF0), (3, 0xF0F0F0F0)] [(0x100, 0x20C1B3)] with
        icount := 1 }) := by
  decide

/-- VR13: srl x3, x1, x2. -/
theorem test_srl :
    next? (step (st 0x100 [(1, 0x80000000), (2, 0x1F)] [(0x100, 0x20D1B3)])) =
      some ({ st 0x104 [(1, 0x80000000), (2, 0x1F), (3, 0x1)] [(0x100, 0x20D1B3)] with icount := 1 }) := by decide

/-- VR14: srl x3, x1, x2 (amount 0xFFFFFFE4). -/
theorem test_srl_low_5_bits :
    next? (step (st 0x100 [(1, 0x80000000), (2, 0xFFFFFFE4)] [(0x100, 0x20D1B3)])) =
      some ({ st 0x104 [(1, 0x80000000), (2, 0xFFFFFFE4), (3, 0x8000000)] [(0x100, 0x20D1B3)] with
        icount := 1 }) := by
  decide

/-- VR15: sra x3, x1, x2. -/
theorem test_sra :
    next? (step (st 0x100 [(1, 0x80000000), (2, 0x1F)] [(0x100, 0x4020D1B3)])) =
      some ({ st 0x104 [(1, 0x80000000), (2, 0x1F), (3, 0xFFFFFFFF)] [(0x100, 0x4020D1B3)] with icount := 1 }) := by
  decide

/-- VR16: sra x3, x1, x2 (amount 32). -/
theorem test_sra_amount_32 :
    next? (step (st 0x100 [(1, 0x80000000), (2, 0x20)] [(0x100, 0x4020D1B3)])) =
      some ({ st 0x104 [(1, 0x80000000), (2, 0x20), (3, 0x80000000)] [(0x100, 0x4020D1B3)] with icount := 1 }) := by
  decide

/-- VR17: or x3, x1, x2. -/
theorem test_or :
    next? (step (st 0x100 [(1, 0xFF00FF00), (2, 0xFF00FF0)] [(0x100, 0x20E1B3)])) =
      some ({ st 0x104 [(1, 0xFF00FF00), (2, 0xFF00FF0), (3, 0xFFF0FFF0)] [(0x100, 0x20E1B3)] with
        icount := 1 }) := by
  decide

/-- VR18: and x3, x1, x2. -/
theorem test_and :
    next? (step (st 0x100 [(1, 0xFF00FF00), (2, 0xFF00FF0)] [(0x100, 0x20F1B3)])) =
      some ({ st 0x104 [(1, 0xFF00FF00), (2, 0xFF00FF0), (3, 0xF000F00)] [(0x100, 0x20F1B3)] with icount := 1 }) := by
  decide

/-- VX14: iret at icount 4 (not counted). -/
theorem test_iret_is_not_counted :
    next? (step ({ st 0x100 [] [(0x100, 0xFFFFFFFF)] with
        config := { testConfig with irqThreshold := 5 }, icount := 4, savedReturnAddress := 0x00000180 })) =
      some ({ st 0x180 [] [(0x100, 0xFFFFFFFF)] with
        config := { testConfig with irqThreshold := 5 }, icount := 4, savedReturnAddress := 0x00000180 }) := by
  decide

/-- VX15: addi x1, x1, 1 (diverted; the handler word is iret). -/
theorem test_iret_at_the_handler :
    next? (step ({ st 0x100 [] [(0x100, 0x108093), (0x200, 0xFFFFFFFF)] with pending := true })) =
      some ({ st 0x100 [] [(0x100, 0x108093), (0x200, 0xFFFFFFFF)] with savedReturnAddress := 0x00000100 }) := by
  decide

/-- VX4: fence. -/
theorem test_fence :
    next? (step (st 0x100 [] [(0x100, 0xFF0000F)])) =
      some ({ st 0x104 [] [(0x100, 0xFF0000F)] with
        icount := 1, diagOut := [⟨.unimplementedOperation, 0x100, 0xFF0000F⟩] }) := by
  decide

/-- VX2: ecall. -/
theorem test_ecall :
    next? (step (st 0x40 [] [(0x40, 0x73)])) =
      some ({ st 0x44 [] [(0x40, 0x73)] with icount := 1, diagOut := [⟨.unimplementedOperation, 0x40, 0x73⟩] }) := by
  decide

/-- VX3: ebreak. -/
theorem test_ebreak :
    next? (step (st 0x100 [] [(0x100, 0x100073)])) =
      some ({ st 0x104 [] [(0x100, 0x100073)] with
        icount := 1, diagOut := [⟨.unimplementedOperation, 0x100, 0x100073⟩] }) := by
  decide

/-- VX1: 0x00000000. -/
theorem test_unimplemented :
    next? (step (st 0x100 [] [(0x100, 0x0)])) =
      some ({ st 0x104 [] [(0x100, 0x0)] with icount := 1, diagOut := [⟨.unimplementedOperation, 0x100, 0x0⟩] }) := by
  decide

/-- VX9: store funct3 011. -/
theorem test_unimplemented_store :
    next? (step (st 0x100 [(1, 0x1000), (2, 0x5)] [(0x100, 0x20B023), (0x1000, 0xAABBCCDD)])) =
      some ({ st 0x104 [(1, 0x1000), (2, 0x5)] [(0x100, 0x20B023), (0x1000, 0xAABBCCDD)] with
        icount := 1, diagOut := [⟨.unimplementedOperation, 0x100, 0x20B023⟩] }) := by
  decide

/-- VX12: addi x1, x1, 1 (diverted; the handler's addi x10 runs instead). -/
theorem test_diverted_step :
    next? (step ({ st 0x100 [] [(0x100, 0x108093), (0x200, 0x150513)] with pending := true })) =
      some ({ st 0x204 [(10, 0x1)] [(0x100, 0x108093), (0x200, 0x150513)] with
        icount := 1, savedReturnAddress := 0x00000100 }) := by
  decide

/-- VX13: addi x1, x1, 1 (5th counted). -/
theorem test_threshold_reached :
    next? (step ({ st 0x100 [] [(0x100, 0x108093)] with
        config := { testConfig with irqThreshold := 5 }, icount := 4 })) =
      some ({ st 0x104 [(1, 0x1)] [(0x100, 0x108093)] with
        config := { testConfig with irqThreshold := 5 }, pending := true }) := by
  decide

/-- VF1: fetch at pc 0x102, align_down. -/
theorem test_fetch_align_down :
    next? (step (st 0x102 [] [(0x100, 0x100093), (0x104, 0x200113)])) =
      some ({ st 0x106 [(1, 0x1)] [(0x100, 0x100093), (0x104, 0x200113)] with icount := 1 }) := by decide

/-- VF2: fetch at pc 0x102, unaligned. -/
theorem test_fetch_unaligned :
    next? (step ({ st 0x102 [] [(0x100, 0x100093), (0x104, 0x200113)] with
        config := { testConfig with fetchAlign := .unaligned } })) =
      some ({ st 0x106 [] [(0x100, 0x100093), (0x104, 0x200113)] with
        config := { testConfig with fetchAlign := .unaligned }, icount := 1, diagOut := [⟨.unimplementedOperation, 0x102, 0x1130010⟩] }) := by
  decide

/-- VF4: fetch at pc 0xFFFFFFFC (OOR). -/
theorem test_fetch_out_of_range :
    next? (step (st 0xFFFFFFFC [] [])) =
      some ({ st 0x0 [] [] with icount := 1, diagOut := [⟨.unimplementedOperation, 0xFFFFFFFC, 0x0⟩] }) := by decide

/-- R120's word 0x0000100F, by R240. -/
theorem test_fencei :
    next? (step (st 0x100 [] [(0x100, 0x100F)])) =
      some ({ st 0x104 [] [(0x100, 0x100F)] with
        icount := 1, diagOut := [⟨.unimplementedOperation, 0x100, 0x100F⟩] }) := by
  decide

/-! ## The host's interface -/

theorem test_decodeTableWord :
    decodeTableWord 32 0x002081B3 = some (.add 3#5 1#5 2#5) ∧ decodeTableWord 32 0xFFFFFFFF = some .iret := by
  decide

/-- From reset, the very next step executes the placed word (VI1's word and result). -/
theorem test_withFetchWord :
    (next? (step (State.reset.withFetchWord 32 0x00500093))).map (fun t => (t.pc, t.readReg 1#5)) =
      some (0x4#32, 0x5#32) := by
  decide

/-! ## Memory -/

/-- Writing what an unlisted byte reads as removes the entry. -/
theorem test_memory_canonical :
    Memory.write [(3, 1#8), (5, 2#8)] 3 0#8 = [(5, 2#8)] ∧ Memory.write [(5, 2#8)] 3 1#8 = [(3, 1#8), (5, 2#8)] ∧
    Memory.write [(5, 2#8)] 5 7#8 = [(5, 7#8)] := by
  decide

/-! ## Witnesses: what meets the hypotheses of each statement -/

theorem witness_DecodeOfEncodeIsTheInstruction :
    (Instr.jal 1#5 0x100000#21).wf = true ∧ (Instr.jal 31#5 0x0FFFFE#21).wf = true ∧
    (Instr.beq 0#5 31#5 0x1000#13).wf = true ∧ (Instr.bgeu 31#5 0#5 0x0FFE#13).wf = true ∧
    (Instr.sw 31#5 31#5 0x800#12).wf = true ∧ (Instr.unimplemented 0#32).wf = true := by
  decide

theorem witness_DecodeFollowsTheOpcodeTable :
    (∃ r ∈ namedRows, r.holds 0x002081B3#32 = true) ∧ (∀ r ∈ namedRows, r.holds 0#32 = false) ∧
    (∃ r ∈ namedRows, r.holds 0x0000006F#32 = true ∧ r.mnemonic = "JAL") := by
  decide

/-- A word of each class of immediate. -/
theorem witness_ImmediateLayouts :
    immIOf (decode 0x80000093#32) = some 0x800#12 ∧ immSOf (decode 0x0020A123#32) = some 2#12 ∧
    immBOf (decode 0x80000063#32) = some 0x1000#13 ∧ immUOf (decode 0xFFFFF2B7#32) = some 0xFFFFF#20 ∧
    immJOf (decode 0x7FFFF0EF#32) = some 0x0FFFFE#21 ∧ immJOf (decode 0x0000006F#32) = some 0#21 := by
  decide

theorem witness_JalLinksAndJumps :
    ((0x100000#21).getLsbD 0 = false ∧ ¬ (0#5 = 0#5 ∧ 0x100000#21 = 0#21)) ∧
    ((0#21).getLsbD 0 = false ∧ ¬ (1#5 = 0#5 ∧ 0#21 = 0#21)) := by
  decide

theorem witness_JalrLinksAndJumps : 1#3 ≠ 0b000#3 := by decide

/-- An even offset, and for each branch operands that meet its condition and operands that do not. -/
theorem witness_BranchesGoWhereTheConditionSays :
    let s := st 0 [(1, 0x80000000), (2, 1)] []
    (0x1000#13).getLsbD 0 = false ∧
    s.readReg 1#5 = s.readReg 1#5 ∧ s.readReg 1#5 ≠ s.readReg 2#5 ∧
    (s.readReg 1#5).toInt < (s.readReg 2#5).toInt ∧ ¬ (s.readReg 1#5).toInt < (s.readReg 1#5).toInt ∧
    (s.readReg 1#5).toInt ≤ (s.readReg 1#5).toInt ∧ ¬ (s.readReg 2#5).toInt ≤ (s.readReg 1#5).toInt ∧
    (s.readReg 2#5).toNat < (s.readReg 1#5).toNat ∧ ¬ (s.readReg 1#5).toNat < (s.readReg 1#5).toNat ∧
    (s.readReg 1#5).toNat ≤ (s.readReg 1#5).toNat ∧ ¬ (s.readReg 1#5).toNat ≤ (s.readReg 2#5).toNat := by
  decide

/-- Canonical memories, and aligned addresses in storage, at SERIAL_ADDR and outside both. -/
theorem witness_StoreEffects :
    (st 0 [] [(0x1000, 0xAABBCCDD)]).mem.wf ∧
    ((st 0 [(1, 0x8FFFF)] []).region (align .byte ((st 0 [(1, 0x8FFFF)] []).storeAddr 1#5 0#12))).isStorage = true ∧
    align .half ((st 0 [(1, 0x9FC00)] []).storeAddr 1#5 1#12) = 0x0009FC00#32 ∧
    (st 0 [] []).region 0x0009FC00#32 = .io ∧
    ((st 0 [(1, 0x90000)] []).region (align .word ((st 0 [(1, 0x90000)] []).storeAddr 1#5 3#12))).isStorage = false := by
  decide

/-- The first and last address of each region (EX10), in a machine whose parameters meet R10. -/
theorem witness_RegionsPartitionTheAddressSpace :
    let s := st 0 [] []
    s.config.wf ∧ s.region 0 = .ram ∧ s.region 0x7FFFF = .ram ∧ s.region 0x80000 = .vram ∧ s.region 0x8FFFF = .vram ∧
    s.region 0x90000 = .exp ∧ s.region 0x9FBFF = .exp ∧ s.region 0x9FC00 = .io ∧ s.region 0x9FFFF = .io ∧
    s.region 0xA0000 = .upper ∧ s.region 0xFFFFC = .upper ∧ s.region 0xFFFFD = .oor ∧ s.region 0xFFFFFFFF = .oor := by
  decide

/-- With the least store, the last three bytes of the IO window are out of range (R50). -/
theorem witness_RegionsPartitionTheAddressSpace_least_store :
    let s := { st 0 [] [] with config := { testConfig with memSize := 0xA0000 } }
    s.config.wf ∧ s.region 0x9FFFC = .io ∧ s.region 0x9FFFD = .oor ∧ s.region 0xA0000 = .oor := by
  decide

theorem witness_BusTransactionsGoByRegion :
    let s := st 0 [] [(0x1000, 0xAABBCCDD)]
    s.mem.wf ∧ (s.region 0x7FFFF).isStorage = true ∧ s.region 0xFFFFD = .oor ∧ s.region 0x90000 = .exp ∧
    s.region 0x9FFFF = .io := by
  decide

theorem witness_SerialPeripheralEmitsAtItsAddressOnly :
    let s := st 0 [] []
    s.config.wf ∧ 0x9FC00 ≤ (0x9FC00#32).toNat ∧ (0x9FFFF#32).toNat ≤ 0x9FFFF ∧
    (0x9FFFF#32).toNat + 3 < s.config.memSize := by
  decide

/-- EX3's row of each outcome. -/
theorem witness_BusReadAfterWriteRoundTrip :
    let s := st 0 [] []
    s.mem.wf ∧ s.region 0x7FFFC = .ram ∧ s.region 0x8FFFC = .vram ∧ s.region 0xFFFFC = .upper ∧
    s.region 0x9FBFC = .exp := by
  decide

theorem witness_FetchFollowsFetchAlign :
    (st 0x102 [] []).config.fetchAlign = .alignDown ∧
    ({ st 0x102 [] [] with config := { testConfig with fetchAlign := .unaligned } } : State).config.fetchAlign =
      .unaligned ∧
    (0xFFFFFFFC#32).toNat % 4 = 0 ∧ ((st 0 [] []).region ((st 0 [] []).fetchAddr 0x90000)).isStorage = false := by
  decide

/-- The first word of the store and the last one the statement covers. -/
theorem witness_AccessWidthsSeeTheSameBytes :
    ((0#32).toNat % 4 = 0 ∧ (0#32).toNat + 6 < (st 0 [] []).config.memSize) ∧
    ((0xFFFF8#32).toNat % 4 = 0 ∧ (0xFFFF8#32).toNat + 6 < (st 0 [] []).config.memSize) := by
  decide

/-- VM31: a store over the next instruction. -/
theorem witness_NextFetchSeesAStoredWord :
    let s := st 0x100 [(1, 0x104), (2, 0x100093)] [(0x100, 0x20A023)]
    s.mem.wf ∧ (s.region (align .word (s.storeAddr 1#5 0#12))).isStorage = true ∧
    next? (exec (.sw 1#5 2#5 0#12) s) =
      some (st 0x104 [(1, 0x104), (2, 0x100093)] [(0x100, 0x20A023), (0x104, 0x100093)]) := by
  decide

/-- VX10's fetch of the IRET word with no interrupt pending. -/
theorem witness_IretRestoresThePcOnly :
    (st 0x210 [] [(0x210, 0xFFFFFFFF)]).pending = false ∧
    (st 0x210 [] [(0x210, 0xFFFFFFFF)]).fetch 0x210#32 = 0xFFFFFFFF#32 := by
  decide

/-- IRET; a counted instruction below the threshold; one that reaches it. -/
theorem witness_StepRunsTheDecodedInstruction :
    (decode ((afterCheck (st 0x210 [] [(0x210, 0xFFFFFFFF)])).fetch 0x210#32) = .iret ∧
      exec .iret (afterCheck (st 0x210 [] [(0x210, 0xFFFFFFFF)])) = .next (st 0 [] [(0x210, 0xFFFFFFFF)])) ∧
    (decode ((afterCheck (st 0x100 [] [(0x100, 0x108093)])).fetch 0x100#32) = .addi 1#5 1#5 1#12 ∧
      exec (.addi 1#5 1#5 1#12) (afterCheck (st 0x100 [] [(0x100, 0x108093)])) =
        .next (st 0x104 [(1, 1)] [(0x100, 0x108093)]) ∧
      (st 0x104 [(1, 1)] [(0x100, 0x108093)]).icount + 1 ≠ 1000 ∧
      ({ st 0x104 [(1, 1)] [(0x100, 0x108093)] with icount := 999 } : State).icount + 1 = 1000) :=
  ⟨⟨by decide, next_of (by decide)⟩, by decide, next_of (by decide), by decide, by decide⟩

/-- The default parameters with a loaded image, and the least store. -/
theorem witness_ResetMeetsTheInvariant :
    testConfig.wf ∧ (⟨0xA0000, 0, 1, .unaligned⟩ : Config).wf ∧ Memory.wf [(0, 0x13#8), (0xFFFFF, 1#8)] ∧
    (∀ b ∈ ([(0, 0x13#8), (0xFFFFF, 1#8)] : Memory), b.1 < testConfig.memSize) := by
  decide

/-- VM18's start meets the invariant, and its step has a next state. -/
theorem witness_EveryStepKeepsTheInvariant :
    let s := st 0x100 [(1, 0x1000), (2, 0x12345678)] [(0x100, 0x2081A3), (0x1000, 0xAABBCCDD)]
    s.Inv ∧ ∃ t, step s = .next t :=
  ⟨⟨by decide, by decide, by decide, by decide, by decide, by decide⟩, _, next_of test_sb⟩

theorem witness_PcStaysEven :
    EvenPc (st 0x100 [(5, 0x200)] [(0x100, 0x3280E7)]) ∧ ∃ t, step (st 0x100 [(5, 0x200)] [(0x100, 0x3280E7)]) = .next t :=
  ⟨⟨by decide, by decide, by decide⟩, _, next_of test_jalr_clears_bit_0⟩

theorem witness_ParametersNeverChange : ∃ s t, step s = .next t := ⟨_, _, next_of test_threshold_reached⟩

/-- VM9: a step that changes `x1`. -/
theorem witness_OnlyTheDestinationRegisterChanges :
    ∃ s t r, step s = .next t ∧ t.readReg r ≠ s.readReg r := ⟨_, _, 1#5, next_of test_lw_into_its_base, by decide⟩

/-- A step that stores (VM18), one that emits (VM27), one that does neither (VI3). -/
theorem witness_OnlyStoresReachMemoryAndSerial :
    (∃ s t, s.mem.wf ∧ step s = .next t ∧ (storeOf (afterCheck s) (stepInstr s)).isSome = true ∧ t.mem ≠ s.mem) ∧
    (∃ s t, s.mem.wf ∧ step s = .next t ∧ (storeOf (afterCheck s) (stepInstr s)).isSome = true ∧ t.serialOut ≠ []) ∧
    (∃ s t, s.mem.wf ∧ step s = .next t ∧ storeOf (afterCheck s) (stepInstr s) = none) :=
  ⟨⟨_, _, by decide, next_of test_sb, by decide, by decide⟩,
    ⟨_, _, by decide, next_of test_sh_serial_misaligned, by decide, by decide⟩,
    ⟨_, _, by decide, next_of test_addi_wraps, by decide⟩⟩

/-- A step that reports (VX2) and one that does not (VI3). -/
theorem witness_DiagnosticsRecordUnimplementedWords :
    (∃ s t, step s = .next t ∧ isUnimplemented (stepInstr s) = true) ∧
    (∃ s t, step s = .next t ∧ isUnimplemented (stepInstr s) = false) :=
  ⟨⟨_, _, next_of test_ecall, by decide⟩, ⟨_, _, next_of test_addi_wraps, by decide⟩⟩

/-- A diverted step (VX12), one that reaches the threshold (VX13), an IRET (VX14). -/
theorem witness_InterruptStateIsWrittenByCheckAndScheduling :
    (∃ s t, step s = .next t ∧ s.pending = true) ∧
    (∃ s t, step s = .next t ∧ stepInstr s ≠ .iret ∧ s.icount + 1 = s.config.irqThreshold) ∧
    (∃ s t, step s = .next t ∧ stepInstr s = .iret) :=
  ⟨⟨_, _, next_of test_diverted_step, by decide⟩, ⟨_, _, next_of test_threshold_reached, by decide, by decide⟩,
    ⟨_, _, next_of test_iret_is_not_counted, by decide⟩⟩

/-- A counted step with an interrupt pending (VX12) and one with none (VI3). -/
theorem witness_OnlyIretReadsTheSavedReturnAddress :
    (∃ s t, step s = .next t ∧ stepInstr s ≠ .iret ∧ s.pending = true) ∧
    (∃ s t, step s = .next t ∧ stepInstr s ≠ .iret ∧ s.pending = false) :=
  ⟨⟨_, _, next_of test_diverted_step, by decide, by decide⟩, ⟨_, _, next_of test_addi_wraps, by decide, by decide⟩⟩

/-- A step that adds to each stream (VM25, VX2). -/
theorem witness_OutputStreamsAreNeverRead :
    (∃ s t, step s = .next t ∧ t.serialOut ≠ s.serialOut) ∧ (∃ s t, step s = .next t ∧ t.diagOut ≠ s.diagOut) :=
  ⟨⟨_, _, next_of test_sb_serial, by decide⟩, ⟨_, _, next_of test_ecall, by decide⟩⟩

/-- VM24: a store to EXP; the first and last byte of the two regions. -/
theorem witness_ExpansionAndIoBytesNeverChange :
    ∃ s t, s.mem.wf ∧ step s = .next t ∧ (0x90000 ≤ 0x90000 ∧ 0x90000 ≤ 0x9FFFF) ∧ 0x90000 ≤ 0x9FFFF ∧
      0x9FFFF ≤ 0x9FFFF :=
  ⟨_, _, by decide, next_of test_sw_expansion, by decide, by decide, by decide⟩

/-- A state and the same with other bytes at the first word of EXP and the last of IO. -/
theorem witness_ExpansionAndIoBytesNeverMatter :
    ∃ s s' t t' : State, s.mem.wf ∧ s'.mem.wf ∧ s.config.fetchAlign = .alignDown ∧ AgreeOutsideExpAndIo s s' ∧
      s.mem ≠ s'.mem ∧ step s = .next t ∧ step s' = .next t' :=
  ⟨st 0x100 [] [(0x100, 0x500093)], st 0x100 [] [(0x100, 0x500093), (0x90000, 1), (0x9FFFC, 0x80000000)],
    { st 0x104 [(1, 5)] [(0x100, 0x500093)] with icount := 1 },
    { st 0x104 [(1, 5)] [(0x100, 0x500093), (0x90000, 1), (0x9FFFC, 0x80000000)] with icount := 1 },
    by decide, by decide, rfl,
    ⟨rfl, rfl, rfl, rfl, rfl, rfl, rfl, rfl, fun a h => by
      have e : (st 0x100 [] [(0x100, 0x500093), (0x90000, 1), (0x9FFFC, 0x80000000)]).mem =
          (st 0x100 [] [(0x100, 0x500093)]).mem ++ [(0x90000, 1#8), (0x9FFFF, 0x80#8)] := by decide
      have e0 : (st 0x100 [] [(0x100, 0x500093)]).mem = [(0x100, 0x93#8), (0x102, 0x50#8)] := by decide
      rw [e, e0]
      simp only [List.cons_append, List.nil_append, Memory.read]
      rw [if_neg (show ¬ 0x90000 = a by omega), if_neg (show ¬ 0x9FFFF = a by omega)]⟩,
    by decide, next_of (by decide), next_of (by decide)⟩

/-- One counted step, with the threshold at 1 (reached) and at 1000 (not reached). -/
theorem witness_InterruptComesAfterThresholdCountedSteps :
    (∃ s t, s.icount = 0 ∧ 1 ≤ 1 ∧ 1 = s.config.irqThreshold ∧ ReachesCounted 1 s t ∧ ∃ u, step t = .next u) ∧
    (∃ s t, s.icount = 0 ∧ 1 ≤ 1 ∧ 1 < s.config.irqThreshold ∧ ReachesCounted 1 s t) :=
  ⟨⟨{ st 0x100 [] [(0x100, 0x108093)] with config := { testConfig with irqThreshold := 1 } },
      { st 0x104 [(1, 1)] [(0x100, 0x108093)] with
        config := { testConfig with irqThreshold := 1 }, pending := true },
      rfl, by decide, rfl, .tail (.refl _) (by decide) (next_of (by decide)),
      { st 0x204 [(1, 1)] [(0x100, 0x108093)] with
        config := { testConfig with irqThreshold := 1 }, savedReturnAddress := 0x104, pending := true,
        diagOut := [⟨.unimplementedOperation, 0x200, 0⟩] }, next_of (by decide)⟩,
    ⟨_, _, rfl, by decide, by decide, .tail (.refl _) (by decide) (next_of test_addi_wraps)⟩⟩

/-- EX7's variant: the handler is one ADDI and the IRET word. -/
theorem witness_ShortHandlerReturnsToTheInterruptedPc :
    ∃ s u v : State, s.pending = true ∧ s.icount = 0 ∧ ReachesCounted 1 s u ∧ 1 < s.config.irqThreshold ∧
      stepInstr u = .iret ∧ step u = .next v :=
  ⟨{ st 0x100 [] [(0x200, 0x150513), (0x204, 0xFFFFFFFF)] with pending := true },
    { st 0x204 [(10, 1)] [(0x200, 0x150513), (0x204, 0xFFFFFFFF)] with savedReturnAddress := 0x100, icount := 1 },
    { st 0x100 [(10, 1)] [(0x200, 0x150513), (0x204, 0xFFFFFFFF)] with savedReturnAddress := 0x100, icount := 1 },
    rfl, rfl, .tail (.refl _) (by decide) (next_of (by decide)), by decide, by decide, next_of (by decide)⟩

/-- VX15's start. -/
theorem witness_IretAtTheHandlerUndoesTheDiversion :
    ∃ s : State, s.pending = true ∧ s.fetch s.config.handlerAddress = 0xFFFFFFFF#32 :=
  ⟨{ st 0x100 [] [(0x200, 0xFFFFFFFF)] with pending := true }, rfl, by decide⟩

theorem run_one {s t : State} (h0 : s.atHalt = false) (h : step s = .next t) :
    run 1 s = .next (t, if t.atHalt then .halted else .outOfSteps) := by
  cases h1 : t.atHalt <;> simp [run, h0, h, h1]

/-- A run that halts after one step and one that stops after one step, in a word that is not the halt word. -/
theorem witness_RunsStopOnlyAtTheHaltWordOrTheBudget :
    (∃ s t, run 1 s = .next (t, .halted)) ∧ (∃ s t, run 1 s = .next (t, .outOfSteps)) :=
  ⟨⟨st 0 [] [(0, 0x500093), (4, 0x6F)], { st 4 [(1, 5)] [(0, 0x500093), (4, 0x6F)] with icount := 1 },
      run_one (by decide) (next_of (by decide))⟩,
    ⟨st 0 [] [(0, 0x500093)], { st 4 [(1, 5)] [(0, 0x500093)] with icount := 1 },
      run_one (by decide) (next_of (by decide))⟩⟩

theorem witness_StoppedRunsResumeUnchanged : ∃ s t, run 0 s = .next (t, .outOfSteps) :=
  ⟨st 0 [] [], _, if_neg (by decide)⟩

/-- A state whose next fetch is from storage and one whose next fetch is not. -/
theorem witness_WithFetchWordIsWhatTheNextStepExecutes :
    (∃ s : State, s.config.wf ∧ s.mem.wf ∧ (s.region s.nextFetchAddr).isStorage = true) ∧
    (∃ s : State, s.config.wf ∧ s.mem.wf ∧ (s.region s.nextFetchAddr).isStorage = false) :=
  ⟨⟨st 0x100 [] [], by decide, by decide, by decide⟩, ⟨st 0x90000 [] [], by decide, by decide, by decide⟩⟩

end Sys2Proof.Tests
end

