-- ==== Sys2Proof/Proofs/Family10State.lean ====
section
/-! The register file (10_state.md R21), and who reads `saved_return_address` (R30). A change of the state that an
instruction cannot see is a function `f` that keeps every field the meanings read and commutes with every update they
make (`Unseen`); such an `f` commutes with every step's execute and end, but for IRET's. -/

namespace Sys2Proof.Machine

/-- What `f` changes is seen by no instruction but IRET: it keeps the fields those read, and commutes with the updates
those make. -/
structure Unseen (f : State → State) : Prop where
  config (s : State) : (f s).config = s.config
  regs (s : State) : (f s).regs = s.regs
  pc (s : State) : (f s).pc = s.pc
  mem (s : State) : (f s).mem = s.mem
  icount (s : State) : (f s).icount = s.icount
  setRegs (s : State) (regs : Vector Word 32) : { f s with regs := regs } = f { s with regs := regs }
  setPc (s : State) (a : Word) : (f s).setPc a = f (s.setPc a)
  setMem (s : State) (m : Memory) : { f s with mem := m } = f { s with mem := m }
  setIcount (s : State) (n : Nat) : { f s with icount := n } = f { s with icount := n }
  setPending (s : State) (p : Bool) : { f s with pending := p } = f { s with pending := p }
  emit (s : State) (b : Byte) : (f s).emit b = f (s.emit b)
  report (s : State) (ipc inst : Word) : (f s).report ipc inst = f (s.report ipc inst)

namespace Unseen

variable {f : State → State} (h : Unseen f)
include h

/-! ### What the operations read -/

theorem readReg (s : State) (r : RegIdx) : (f s).readReg r = s.readReg r := State.readReg_congr (h.regs s) r

theorem region (s : State) (a : Word) : (f s).region a = s.region a := State.region_congr (h.config s) a

theorem busRead (s : State) (a : Word) : (f s).busRead a = s.busRead a :=
  State.busRead_congr (h.config s) (fun _ _ _ => by rw [h.mem])

theorem fetch (s : State) (p : Word) : (f s).fetch p = s.fetch p := by
  simp only [State.fetch, State.fetchAddr, h.config, h.busRead]

/-! ### The updates -/

theorem advance (s : State) : (f s).advance = f s.advance := by
  simp only [State.advance, State.nextPc, h.pc, h.setPc]

theorem writeReg (s : State) (r : RegIdx) (v : Word) : (f s).writeReg r v = f (s.writeReg r v) := by
  by_cases hr : r = 0#5
  · simp only [State.writeReg, if_pos hr]
  · simp only [State.writeReg, if_neg hr, h.regs, h.setRegs]

theorem writeResult (s : State) (rd : RegIdx) (v : Word) : (f s).writeResult rd v = f (s.writeResult rd v) := by
  simp only [State.writeResult, h.writeReg, h.advance]

theorem linkAndJump (s : State) (rd : RegIdx) (a : Word) : (f s).linkAndJump rd a = f (s.linkAndJump rd a) := by
  simp only [State.linkAndJump, State.nextPc, h.pc, h.writeReg, h.setPc]

theorem branch (s : State) (cond : Bool) (imm : BitVec 13) : (f s).branch cond imm = f (s.branch cond imm) := by
  cases cond
  · exact h.advance s
  · simp only [State.branch, if_true, h.pc, h.setPc]

theorem skipUnimplemented (s : State) (inst : Word) : (f s).skipUnimplemented inst = f (s.skipUnimplemented inst) := by
  simp only [State.skipUnimplemented, h.pc, h.report, h.advance]

theorem storeWord (s : State) (a v : Word) : (f s).storeWord a v = f (s.storeWord a v) := by
  simp only [State.storeWord, h.mem, h.setMem]

theorem periphWrite (s : State) (a v : Word) : (f s).periphWrite a v = f (s.periphWrite a v) := by
  by_cases ha : a = serialAddr
  · simp only [State.periphWrite, if_pos ha, h.emit]
  · simp only [State.periphWrite, if_neg ha]

theorem busWrite (s : State) (a v : Word) : (f s).busWrite a v = f (s.busWrite a v) := by
  cases hr : s.region a <;> simp only [State.busWrite, h.region, hr, h.periphWrite, h.storeWord]

theorem memWrite (s : State) (w : Width) (addr v : Word) : (f s).memWrite w addr v = f (s.memWrite w addr v) := by
  simp only [State.memWrite_eq_busWrite, h.busRead, h.busWrite]

theorem resetX0 (s : State) : (f s).resetX0 = f s.resetX0 := by
  simp only [State.resetX0, h.regs, h.setRegs]

theorem scheduleInterrupt (s : State) : (f s).scheduleInterrupt = f s.scheduleInterrupt := by
  have hiff : (f s).icount + 1 = (f s).config.irqThreshold ↔ s.icount + 1 = s.config.irqThreshold := by
    rw [h.icount, h.config]
  by_cases ht : s.icount + 1 = s.config.irqThreshold
  · rw [State.scheduleInterrupt, State.scheduleInterrupt, if_pos (hiff.mpr ht), if_pos ht]
    have hp := h.setPending { s with icount := 0 } true
    rwa [← h.setIcount] at hp
  · rw [State.scheduleInterrupt, State.scheduleInterrupt, if_neg (ht ∘ hiff.mp), if_neg ht, h.icount]
    exact h.setIcount s _

theorem finishStep (s : State) (i : Instr) : (f s).finishStep i = f (s.finishStep i) := by
  cases hi : isCounted i
  · simp only [State.finishStep, hi, Bool.false_eq_true, if_false]
  · simp only [State.finishStep, hi, if_true, h.resetX0, h.scheduleInterrupt]

/-! ### The instructions -/

/-- Every instruction but IRET does the same to the changed state. -/
theorem exec {i : Instr} (hi : i ≠ .iret) (s : State) : exec i (f s) = mapNext f (exec i s) := by
  cases i
  case iret => exact absurd rfl hi
  case lui | auipc | addi | slti | sltiu | xori | ori | andi | slli | srli | srai | add | sub | sll | slt | sltu | xor
      | srl | sra | or | and =>
    simp only [Machine.exec, mapNext, execLui, execAuipc, execAddi, execSlti, execSltiu, execXori, execOri, execAndi,
      execSlli, execSrli, execSrai, execAdd, execSub, execSll, execSlt, execSltu, execXor, execSrl, execSra, execOr,
      execAnd, h.pc, h.readReg, h.writeResult]
  case lb | lh | lw | lbu | lhu =>
    simp only [Machine.exec, mapNext, execLb, execLh, execLw, execLbu, execLhu, State.loadAddr, State.memRead8,
      State.memRead16, State.memRead32, State.memReadBus, h.readReg, h.busRead, h.writeResult]
  case sb | sh | sw =>
    simp only [Machine.exec, mapNext, execSb, execSh, execSw, State.storeAddr, h.readReg, h.memWrite, h.advance]
  case jal | jalr | halt =>
    simp only [Machine.exec, mapNext, execJal, execJalr, execHalt, State.jalTarget, State.jalrTarget, h.pc, h.readReg,
      h.linkAndJump]
  case beq | bne | blt | bge | bltu | bgeu =>
    simp only [Machine.exec, mapNext, execBeq, execBne, execBlt, execBge, execBltu, execBgeu, h.readReg, h.branch]
  case fence | fencei | ecall | ebreak | unimplemented =>
    simp only [Machine.exec, mapNext, execFence, execFencei, execEcall, execEbreak, execUnimplemented,
      h.skipUnimplemented]

/-- A step whose interrupt check leaves `f` of what it leaves in `s` goes on to `f` of where `s` goes, unless it
executes IRET. -/
theorem step {s s' t : State} (hc : s'.interruptCheck = f s.interruptCheck) (hi : s.currentInstr ≠ .iret)
    (ht : step s = .next t) : step s' = .next (f t) := by
  have hcur : s'.currentInstr = s.currentInstr := by simp only [State.currentInstr, hc, h.pc, h.fetch]
  obtain ⟨u, hu, -⟩ := exec_shape s.currentInstr s.interruptCheck
  have hstep : Machine.step s = .next (u.finishStep s.currentInstr) := by rw [Machine.step, hu, mapNext]
  obtain rfl : u.finishStep s.currentInstr = t := Host.Outcome.next.inj (hstep.symm.trans ht)
  rw [Machine.step, hcur, hc, h.exec hi, hu, mapNext, mapNext, h.finishStep]

end Unseen

/-! ## The saved return address -/

/-- `s` with another saved return address. -/
def State.withSavedReturnAddress (v : Word) (s : State) : State := { s with savedReturnAddress := v }

/-- No instruction but IRET sees the saved return address (R30). -/
theorem unseen_withSavedReturnAddress (v : Word) : Unseen (State.withSavedReturnAddress v) where
  config _ := rfl
  regs _ := rfl
  pc _ := rfl
  mem _ := rfl
  icount _ := rfl
  setRegs _ _ := rfl
  setPc _ _ := rfl
  setMem _ _ := rfl
  setIcount _ _ := rfl
  setPending _ _ := rfl
  emit _ _ := rfl
  report _ _ _ := rfl

/-- The interrupt check overwrites the saved return address where it diverts, and keeps it otherwise (R256). -/
theorem State.interruptCheck_withSavedReturnAddress (v : Word) (s : State) :
    (s.withSavedReturnAddress v).interruptCheck =
      s.interruptCheck.withSavedReturnAddress (if s.pending = true then s.pc else v) := by
  cases hp : s.pending <;>
    simp [State.interruptCheck, State.withSavedReturnAddress, State.enterInterrupt, hp]

/-- A step writes the saved return address in its interrupt check only. -/
theorem step_savedReturnAddress {s t : State} (h : step s = .next t) :
    t.savedReturnAddress = if s.pending = true then s.pc else s.savedReturnAddress := by
  obtain ⟨u, hu, rfl⟩ := step_cases h
  rw [State.finishStep_savedReturnAddress, hu.savedReturnAddress_eq, State.interruptCheck_savedReturnAddress]

end Sys2Proof.Machine

namespace Sys2Proof.Proofs

open Sys2Proof Sys2Proof.Machine Sys2Proof.Claims

/-- Settles O40: the step from the state with another saved return address is the step from `s`, with the register
that its interrupt check leaves. -/
theorem onlyIretReadsTheSavedReturnAddress : Obligations.OnlyIretReadsTheSavedReturnAddress := by
  intro s t v h
  refine ⟨step_savedReturnAddress h, fun hi => ?_⟩
  exact (unseen_withSavedReturnAddress _).step (s.interruptCheck_withSavedReturnAddress v) hi h

/-- Settles O7, by whether the register written is `x0`. -/
theorem registerFileReadsBackWritesExceptX0 : Obligations.RegisterFileReadsBackWritesExceptX0 := by
  intro s r q v
  refine ⟨s.readReg_zero, ?_⟩
  rw [State.readReg_writeReg]
  by_cases hr : r = 0#5
  · rw [if_pos hr, if_neg fun hq => hq.2 hr]
  · simp only [hr, ne_eq, not_false_eq_true, and_true, if_false]

end Sys2Proof.Proofs
end

