-- ==== Sys2Proof/Proofs/Family20Memory.lean ====
section
/-! Alignment as arithmetic (20_memory.md R60), the little-endian value of a word read (R55), and the bus's
transactions by region (R55 to R57, R75). -/

namespace Sys2Proof.Machine

/-! ## Alignment -/

/-- The number of low bits `Align` clears. -/
def Width.lowBits : Width → Nat
  | .byte => 0
  | .half => 1
  | .word => 2

theorem Width.bytes_eq_two_pow (w : Width) : w.bytes = 2 ^ w.lowBits := by cases w <;> rfl

/-- `Align` shifts the low bits out and zeros in. -/
theorem align_eq_shift (w : Width) (a : Word) : align w a = a >>> w.lowBits <<< w.lowBits := by
  rw [BitVec.shiftLeft_ushiftRight]
  cases w <;> rfl

/-- `Align` goes down to a multiple of the width (R60). -/
theorem toNat_align (w : Width) (a : Word) : (align w a).toNat = a.toNat / w.bytes * w.bytes := by
  have hle : a.toNat / w.bytes * w.bytes ≤ a.toNat := Nat.div_mul_le_self _ _
  rw [align_eq_shift, BitVec.toNat_shiftLeft, BitVec.toNat_ushiftRight, Nat.shiftLeft_eq, Nat.shiftRight_eq_div_pow,
    ← w.bytes_eq_two_pow, Nat.mod_eq_of_lt (Nat.lt_of_le_of_lt hle a.isLt)]

@[simp] theorem align_byte (a : Word) : align .byte a = a := by simp [align_eq_shift, Width.lowBits]

/-! ## The value of a word read -/

/-- A byte appended below a bit vector counts once, what is above it 256 times. -/
theorem toNat_append_byte {n : Nat} (hi : BitVec n) (lo : Byte) : (hi ++ lo).toNat = lo.toNat + 256 * hi.toNat := by
  rw [BitVec.toNat_append, ← Nat.shiftLeft_add_eq_or_of_lt lo.isLt, Nat.shiftLeft_eq]
  omega

/-- The word at `a` is the little-endian value of its four bytes (R55). -/
theorem Memory.toNat_readWord (m : Memory) (a : Nat) : (m.readWord a).toNat = Claims.leValue m a 4 := by
  simp only [Memory.readWord, wordOfBytes, toNat_append_byte, Claims.leValue, Nat.add_assoc, Nat.reduceAdd, Nat.mul_zero,
    Nat.add_zero]

/-! ## The bus -/

/-- The storage regions (R53). -/
theorem Region.isStorage_iff (r : Region) : r.isStorage = true ↔ r = .ram ∨ r = .vram ∨ r = .upper := by
  cases r <;> decide

/-- A read after a write at the same address gives the word in storage, 0 elsewhere (R75). -/
theorem State.busRead_busWrite {s : State} (h : s.mem.wf) (a v : Word) :
    (s.busWrite a v).busRead a = if (s.region a).isStorage then v else 0#32 := by
  have hr : (s.busWrite a v).region a = s.region a := State.region_congr (State.busWrite_config s a v) a
  cases hs : (s.region a).isStorage
  · exact State.busRead_of_not_storage (by rw [hr, hs])
  · rw [State.busRead_of_storage (by rw [hr, hs]), State.busWrite_mem, hs]
    exact Memory.readWord_writeWord h.1 _ _

end Sys2Proof.Machine

namespace Sys2Proof.Proofs

open Sys2Proof Sys2Proof.Machine Sys2Proof.Claims

/-- Settles O18, region by region: in storage by the read-after-write law of the backing store. -/
theorem busTransactionsGoByRegion : Obligations.BusTransactionsGoByRegion := by
  intro s a v hwf
  refine ⟨fun hs => ?_, fun h => ?_, fun h => ?_⟩
  · have hread := Memory.read_writeWord hwf.1 a.toNat v
    rw [State.busRead_of_storage hs, State.busWrite_of_storage hs]
    refine ⟨Memory.toNat_readWord _ _, rfl, fun k hk => ?_, fun b hb => ?_⟩
    · rw [State.storeWord_mem, hread, if_pos (by omega), Nat.add_sub_cancel_left]
    · rw [State.storeWord_mem, hread, if_neg hb]
  · have hs : (s.region a).isStorage = false := by rcases h with h | h <;> rw [h] <;> rfl
    exact ⟨State.busRead_of_not_storage hs, State.busWrite_of_exp_oor h.symm v⟩
  · have hs : (s.region a).isStorage = false := by rw [h]; rfl
    have hread := State.busRead_of_not_storage hs
    exact ⟨hread, hread, State.busWrite_of_io h v⟩

/-- Settles O20: the read after the write by whether the region is storage, which RAM, VRAM and UPPER are. -/
theorem busReadAfterWriteRoundTrip : Obligations.BusReadAfterWriteRoundTrip := by
  intro s a v hwf
  simp only [State.busRead_busWrite hwf, Region.isStorage_iff]

/-- Settles O14: the masks are the complements of 0, 1 and 3, and clearing low bits divides and multiplies. -/
theorem alignClearsTheLowBits : Obligations.AlignClearsTheLowBits :=
  fun a => ⟨align_byte a, rfl, rfl, fun w => toNat_align w a⟩

end Sys2Proof.Proofs
end

