-- ==== Sys2Proof/Proofs/Family30Encoding.lean ====
section
/-! The immediates (30_encoding.md R104 to R108): the bits of each field, what sign extension makes of a field, and
which field each decoded instruction carries. -/

namespace Sys2Proof

/-! ## Bits of the immediate fields -/

/-- R104. -/
theorem getLsbD_immIField (w : Word) {k : Nat} (hk : k < 12) : (immIField w).getLsbD k = w.getLsbD (20 + k) := by
  rw [immIField, BitVec.getLsbD_extractLsb', decide_eq_true hk, Bool.true_and]

/-- R105. -/
theorem immSField_bits (w : Word) :
    (∀ k, k < 5 → (immSField w).getLsbD k = w.getLsbD (7 + k)) ∧
    (∀ k, k < 7 → (immSField w).getLsbD (5 + k) = w.getLsbD (25 + k)) := by
  refine ⟨?_, ?_⟩ <;>
  · intro k hk
    simp only [immSField, BitVec.getLsbD_append, BitVec.getLsbD_extractLsb']
    interval_cases k <;> simp

/-- R106; bit 0 is `immBField_even`. -/
theorem immBField_bits (w : Word) :
    (∀ k, k < 4 → (immBField w).getLsbD (1 + k) = w.getLsbD (8 + k)) ∧
    (∀ k, k < 6 → (immBField w).getLsbD (5 + k) = w.getLsbD (25 + k)) ∧
    (immBField w).getLsbD 11 = w.getLsbD 7 ∧ (immBField w).getLsbD 12 = w.getLsbD 31 := by
  simp only [immBField, BitVec.getLsbD_append, BitVec.getLsbD_extractLsb']
  refine ⟨fun k hk => ?_, fun k hk => ?_, by simp, by simp⟩ <;> interval_cases k <;> simp

/-- R107. -/
theorem getLsbD_immUField (w : Word) {k : Nat} (hk : k < 20) : (immUField w).getLsbD k = w.getLsbD (12 + k) := by
  rw [immUField, BitVec.getLsbD_extractLsb', decide_eq_true hk, Bool.true_and]

/-- R108; bit 0 is `immJField_even`. -/
theorem immJField_bits (w : Word) :
    (∀ k, k < 10 → (immJField w).getLsbD (1 + k) = w.getLsbD (21 + k)) ∧
    (immJField w).getLsbD 11 = w.getLsbD 20 ∧
    (∀ k, k < 8 → (immJField w).getLsbD (12 + k) = w.getLsbD (12 + k)) ∧
    (immJField w).getLsbD 20 = w.getLsbD 31 := by
  simp only [immJField, BitVec.getLsbD_append, BitVec.getLsbD_extractLsb']
  refine ⟨fun k hk => ?_, by simp, fun k hk => ?_, by simp⟩ <;> interval_cases k <;> simp

/-! ## Sign extension to a word -/

section SignExtension
variable {n : Nat} (x : BitVec (n + 1))

theorem getLsbD_signExtend_word_low {k : Nat} (hk : k ≤ n) (hn : n < 32 := by decide) :
    (x.signExtend 32).getLsbD k = x.getLsbD k := by
  rw [BitVec.getLsbD_signExtend, if_pos (by omega), decide_eq_true (by omega), Bool.true_and]

/-- The bits from the top one up are copies of it. -/
theorem getLsbD_signExtend_word_high {k : Nat} (hn : n ≤ k) (hk : k < 32) :
    (x.signExtend 32).getLsbD k = x.getLsbD n := by
  rw [BitVec.getLsbD_signExtend, decide_eq_true hk, Bool.true_and, BitVec.msb_eq_getLsbD_last, Nat.add_sub_cancel,
    ite_eq_right_iff]
  intro h
  rw [show k = n by omega]

theorem toInt_signExtend_word_range (hn : n < 32 := by decide) :
    -2 ^ n ≤ (x.signExtend 32).toInt ∧ (x.signExtend 32).toInt ≤ 2 ^ n - 1 := by
  rw [BitVec.toInt_signExtend_of_le hn]
  exact ⟨x.le_toInt, Int.le_sub_one_of_lt x.toInt_lt⟩

/-- With bit 0 clear the value is even, so the greatest one is not reached. -/
theorem toInt_signExtend_word_le_of_even (h0 : x.getLsbD 0 = false) (hpos : 0 < n := by decide)
    (hn : n < 32 := by decide) :
    (x.signExtend 32).toInt ≤ 2 ^ n - 2 := by
  have hlt : x.toInt < 2 ^ n := x.toInt_lt
  have heven : x.toNat % 2 = 0 := by simpa [BitVec.getLsbD] using h0
  rw [BitVec.toInt_signExtend_of_le hn]
  obtain ⟨m, rfl⟩ := Nat.exists_eq_add_one.mpr hpos
  rw [BitVec.toInt_eq_toNat_cond] at *
  push_cast [pow_succ] at *
  split <;> omega

end SignExtension

end Sys2Proof

namespace Sys2Proof.Machine

/-- The low twelve bits of `immU` are 0, the others the field's. -/
theorem getLsbD_immU (imm : BitVec 20) (k : Nat) :
    (immU imm).getLsbD k = if k < 12 then false else imm.getLsbD (k - 12) := by
  rw [immU, BitVec.getLsbD_append, BitVec.getLsbD_zero]

end Sys2Proof.Machine

namespace Sys2Proof.Claims

open Sys2Proof

/-! ## The immediate a decoded instruction carries

Each class decoder is split into its branches: an answer has an immediate of one kind, which the branch writes as that
field of the word, or it has none. -/

/-- Each kind of immediate that `i` has is that field of `w`. -/
structure CarriesImmediatesOf (w : Word) (i : Instr) : Prop where
  immI : ∀ imm, immIOf i = some imm → imm = immIField w
  immS : ∀ imm, immSOf i = some imm → imm = immSField w
  immB : ∀ imm, immBOf i = some imm → imm = immBField w
  immU : ∀ imm, immUOf i = some imm → imm = immUField w
  immJ : ∀ imm, immJOf i = some imm → imm = immJField w

theorem CarriesImmediatesOf.ite {w : Word} {c : Prop} [Decidable c] {i j : Instr} (hi : c → CarriesImmediatesOf w i)
    (hj : CarriesImmediatesOf w j) : CarriesImmediatesOf w (if c then i else j) := by
  split_ifs with h
  · exact hi h
  · exact hj

theorem decodeJalr_carriesImmediates (w : Word) : CarriesImmediatesOf w (decodeJalr w) := by
  unfold decodeJalr
  split_ifs <;> constructor <;> rintro _ ⟨⟩
  rfl

theorem decodeBranch_carriesImmediates (w : Word) : CarriesImmediatesOf w (decodeBranch w) := by
  unfold decodeBranch
  split_ifs <;> constructor <;> rintro _ ⟨⟩ <;> rfl

theorem decodeLoad_carriesImmediates (w : Word) : CarriesImmediatesOf w (decodeLoad w) := by
  unfold decodeLoad
  split_ifs <;> constructor <;> rintro _ ⟨⟩ <;> rfl

theorem decodeStore_carriesImmediates (w : Word) : CarriesImmediatesOf w (decodeStore w) := by
  unfold decodeStore
  split_ifs <;> constructor <;> rintro _ ⟨⟩ <;> rfl

theorem decodeAluImm_carriesImmediates (w : Word) : CarriesImmediatesOf w (decodeAluImm w) := by
  unfold decodeAluImm
  split_ifs <;> constructor <;> rintro _ ⟨⟩ <;> rfl

theorem decodeAluReg_carriesImmediates (w : Word) : CarriesImmediatesOf w (decodeAluReg w) := by
  unfold decodeAluReg
  split_ifs <;> constructor <;> rintro _ ⟨⟩

theorem decodeMiscMem_carriesImmediates (w : Word) : CarriesImmediatesOf w (decodeMiscMem w) := by
  unfold decodeMiscMem
  split_ifs <;> constructor <;> rintro _ ⟨⟩

/-- Every word, class by class; the halt word is `JAL x0, 0`, whose offset field is 0 (R112). -/
theorem decode_carriesImmediates (w : Word) : CarriesImmediatesOf w (decode w) := by
  refine .ite (fun _ => ?iret) <| .ite (fun hw => hw ▸ ?halt) <| .ite (fun _ => ?ecall) <| .ite (fun _ => ?ebreak) <|
    .ite (fun _ => ?lui) <| .ite (fun _ => ?auipc) <| .ite (fun _ => ?jal) <|
    .ite (fun _ => decodeJalr_carriesImmediates w) <| .ite (fun _ => decodeBranch_carriesImmediates w) <|
    .ite (fun _ => decodeLoad_carriesImmediates w) <| .ite (fun _ => decodeStore_carriesImmediates w) <|
    .ite (fun _ => decodeAluImm_carriesImmediates w) <| .ite (fun _ => decodeAluReg_carriesImmediates w) <|
    .ite (fun _ => decodeMiscMem_carriesImmediates w) ?unimplemented
  all_goals constructor <;> rintro _ ⟨⟩ <;> rfl

end Sys2Proof.Claims

namespace Sys2Proof.Proofs

open Sys2Proof Sys2Proof.Machine Sys2Proof.Claims

/-- Settles O6, format by format: the bits of the field, carried through the sign extension; the range of the extended
value; and the field the decoder puts into the instruction. -/
theorem immediateLayouts : Obligations.ImmediateLayouts := by
  intro w
  have carried := decode_carriesImmediates w
  refine ⟨?immI, ?immS, ?immB, ?immU, ?immJ⟩
  case immI =>
    have range := toInt_signExtend_word_range (immIField w)
    refine ⟨fun k hk => ?_, fun k hk hk' => ?_, range.1, range.2, carried.immI⟩
    · exact (getLsbD_signExtend_word_low _ (by omega)).trans (getLsbD_immIField w hk)
    · exact (getLsbD_signExtend_word_high _ (by omega) hk').trans (getLsbD_immIField w (by decide))
  case immS =>
    obtain ⟨low, high⟩ := immSField_bits w
    have range := toInt_signExtend_word_range (immSField w)
    refine ⟨fun k hk => ?_, fun k hk => ?_, fun k hk hk' => ?_, range.1, range.2, carried.immS⟩
    · exact (getLsbD_signExtend_word_low _ (by omega)).trans (low k hk)
    · exact (getLsbD_signExtend_word_low _ (by omega)).trans (high k hk)
    · exact (getLsbD_signExtend_word_high _ (by omega) hk').trans (high 6 (by decide))
  case immB =>
    have even := immBField_even w
    obtain ⟨low, mid, bit11, sign⟩ := immBField_bits w
    have range := toInt_signExtend_word_range (immBField w)
    refine ⟨?_, fun k hk => ?_, fun k hk => ?_, ?_, fun k hk hk' => ?_, range.1,
      toInt_signExtend_word_le_of_even _ even, carried.immB⟩
    · exact (getLsbD_signExtend_word_low _ (by decide)).trans even
    · exact (getLsbD_signExtend_word_low _ (by omega)).trans (low k hk)
    · exact (getLsbD_signExtend_word_low _ (by omega)).trans (mid k hk)
    · exact (getLsbD_signExtend_word_low _ (by decide)).trans bit11
    · exact (getLsbD_signExtend_word_high _ (by omega) hk').trans sign
  case immU =>
    refine ⟨fun k hk => ?_, fun k hk hk' => ?_, carried.immU⟩
    · rw [getLsbD_immU, if_pos hk]
    · rw [getLsbD_immU, if_neg (by omega), getLsbD_immUField w (by omega), Nat.add_sub_cancel' hk]
  case immJ =>
    have even := immJField_even w
    obtain ⟨low, bit11, mid, sign⟩ := immJField_bits w
    have range := toInt_signExtend_word_range (immJField w)
    refine ⟨?_, fun k hk => ?_, ?_, fun k hk => ?_, fun k hk hk' => ?_, range.1,
      toInt_signExtend_word_le_of_even _ even, carried.immJ⟩
    · exact (getLsbD_signExtend_word_low _ (by decide)).trans even
    · exact (getLsbD_signExtend_word_low _ (by omega)).trans (low k hk)
    · exact (getLsbD_signExtend_word_low _ (by decide)).trans bit11
    · exact (getLsbD_signExtend_word_low _ (by omega)).trans (mid k hk)
    · exact (getLsbD_signExtend_word_high _ (by omega) hk').trans sign

end Sys2Proof.Proofs
end

