-- ==== Sys2Proof/Proofs/Family40Step.lean ====
section
/-! The next state of a step (40_step.md R130, R132). -/

namespace Sys2Proof.Machine

/-- Where the instruction goes on after the interrupt check, so does the step, to the state that ends it. -/
theorem step_of_exec {s u : State} (h : exec s.currentInstr s.interruptCheck = .next u) :
    step s = .next (u.finishStep s.currentInstr) := by
  rw [step, h, mapNext]

end Sys2Proof.Machine

namespace Sys2Proof.Proofs

open Sys2Proof Sys2Proof.Machine Sys2Proof.Claims

/-- Settles O30: every instruction goes on from every state (`exec_shape`), and what ends the step is a function of the
state it leaves. -/
theorem everyStepHasANextState : Obligations.EveryStepHasANextState := by
  intro s
  obtain ⟨u, hu, -⟩ := exec_shape s.currentInstr s.interruptCheck
  exact ⟨u.finishStep s.currentInstr, step_of_exec hu⟩

end Sys2Proof.Proofs
end

