-- ==== Sys2Proof/Proofs/Family41UpperImmediate.lean ====
section
/-! LUI and AUIPC (41_upper_immediate.md R150, R151): what a word of their opcodes decodes to, the number `immU` is,
and, for every instruction that writes one register, what that write is in the words of the statements. -/

namespace Sys2Proof

/-! ## The words of the two opcodes -/

/-- A word is none of the four exact words where its opcode is not one of theirs. -/
theorem ne_exactWords_of_opcodeField {w : Word} {op : BitVec 7} (h : opcodeField w = op)
    (hop : op ∉ [iretWord, haltWord, ecallWord, ebreakWord].map opcodeField) :
    w ≠ iretWord ∧ w ≠ haltWord ∧ w ≠ ecallWord ∧ w ≠ ebreakWord := by
  subst h
  refine ⟨?_, ?_, ?_, ?_⟩ <;>
  · rintro rfl
    exact hop (by decide)

theorem decode_of_opLui {w : Word} (h : opcodeField w = opLui) : decode w = .lui (rdField w) (immUField w) := by
  obtain ⟨hiret, hhalt, hecall, hebreak⟩ := ne_exactWords_of_opcodeField h (by decide)
  rw [decode, if_neg hiret, if_neg hhalt, if_neg hecall, if_neg hebreak, if_pos h]

theorem decode_of_opAuipc {w : Word} (h : opcodeField w = opAuipc) : decode w = .auipc (rdField w) (immUField w) := by
  obtain ⟨hiret, hhalt, hecall, hebreak⟩ := ne_exactWords_of_opcodeField h (by decide)
  have hlui : opcodeField w ≠ opLui := by rw [h]; decide
  rw [decode, if_neg hiret, if_neg hhalt, if_neg hecall, if_neg hebreak, if_neg hlui, if_pos h]

theorem decode_encodeU_opLui (imm : BitVec 20) (rd : RegIdx) : decode (encodeU imm rd opLui) = .lui rd imm := by
  obtain ⟨hop, hrd⟩ := encodeU_fields imm rd opLui
  rw [decode_of_opLui hop, hrd, immUField_encodeU]

theorem decode_encodeU_opAuipc (imm : BitVec 20) (rd : RegIdx) : decode (encodeU imm rd opAuipc) = .auipc rd imm := by
  obtain ⟨hop, hrd⟩ := encodeU_fields imm rd opAuipc
  rw [decode_of_opAuipc hop, hrd, immUField_encodeU]

end Sys2Proof

namespace Sys2Proof.Machine

/-! ## The immediate as a number -/

/-- `immU` is 4096 times the field (R107). -/
@[simp] theorem toNat_immU (imm : BitVec 20) : (immU imm).toNat = 4096 * imm.toNat := by
  rw [immU, BitVec.toNat_append, BitVec.toNat_zero, Nat.or_zero, Nat.shiftLeft_eq, Nat.mul_comm]

/-- A word plus `immU`, modulo 2^32 (R151). -/
theorem add_immU (a : Word) (imm : BitVec 20) : a + immU imm = BitVec.ofNat 32 (a.toNat + 4096 * imm.toNat) := by
  rw [← toNat_immU, BitVec.ofNat_add, BitVec.ofNat_toNat, BitVec.ofNat_toNat, BitVec.setWidth_eq, BitVec.setWidth_eq]

/-! ## What the two execute as -/

theorem exec_lui (rd : RegIdx) (imm : BitVec 20) (s : State) :
    exec (.lui rd imm) s = .next (s.writeResult rd (immU imm)) := rfl

theorem exec_auipc (rd : RegIdx) (imm : BitVec 20) (s : State) :
    exec (.auipc rd imm) s = .next (s.writeResult rd (s.pc + immU imm)) := rfl

end Sys2Proof.Machine

namespace Sys2Proof.Claims

open Sys2Proof Sys2Proof.Machine

/-! ## One register written -/

/-- A register write, wherever `pc` goes then: `rd` reads the value (0 where it is `x0`), and nothing else changes. -/
theorem wroteReg_setPc (s : State) (rd : RegIdx) (v a : Word) : WroteReg s ((s.writeReg rd v).setPc a) rd v := by
  refine ⟨?_, fun r hr => ?_, fun b => by simp, by simp [SameControl], by simp [SameOutputs]⟩
  · by_cases hrd : rd = 0#5
    · simp [hrd, State.readReg_zero]
    · simp [State.readReg_writeReg, hrd]
  · simp [State.readReg_writeReg, hr]

/-- An instruction whose effect is `writeResult` of a value that meets `P` computes it. -/
theorem computes_of_writeResult {i : Instr} {s : State} {rd : RegIdx} {v : Word} {P : Word → Prop}
    (h : exec i s = .next (s.writeResult rd v)) (hv : P v) : Computes i s rd P :=
  ⟨_, v, h, hv, wroteReg_setPc s rd v _, State.writeResult_pc s rd v⟩

end Sys2Proof.Claims

namespace Sys2Proof.Proofs

open Sys2Proof Sys2Proof.Machine Sys2Proof.Claims

/-- Settles O8: both words are of the U-type format, both effects are a `writeResult`, and the values are `immU` as a
number and its sum with `ipc`. -/
theorem luiAndAuipcResults : Obligations.LuiAndAuipcResults := by
  intro s rd imm
  refine ⟨decode_encodeU_opLui imm rd, decode_encodeU_opAuipc imm rd, ?_, ?_⟩
  · exact computes_of_writeResult (exec_lui rd imm s) (toNat_immU imm)
  · exact computes_of_writeResult (exec_auipc rd imm s) (add_immU s.pc imm)

end Sys2Proof.Proofs
end

