-- ==== Sys2Proof/Proofs/Family42ControlTransfer.lean ====
section
/-! JALR and the six branches (42_control_transfer.md R162, R164 to R170): what the words of their two opcodes decode
to, their targets as exact integers modulo 2^32, and the conditions as comparisons of integers. -/

namespace Sys2Proof

/-! ## The words of the two opcodes -/

theorem decode_of_opJalr {w : Word} (h : opcodeField w = opJalr) : decode w = decodeJalr w := by
  obtain ⟨hiret, hhalt, hecall, hebreak⟩ := ne_exactWords_of_opcodeField h (by decide)
  rw [decode, if_neg hiret, if_neg hhalt, if_neg hecall, if_neg hebreak, h]
  rfl

theorem decode_of_opBranch {w : Word} (h : opcodeField w = opBranch) : decode w = decodeBranch w := by
  obtain ⟨hiret, hhalt, hecall, hebreak⟩ := ne_exactWords_of_opcodeField h (by decide)
  rw [decode, if_neg hiret, if_neg hhalt, if_neg hecall, if_neg hebreak, h]
  rfl

/-- An I-type word of JALR's opcode is JALR with funct3 000 only (R115, D12). -/
theorem decode_encodeI_opJalr (imm : BitVec 12) (rs1 : RegIdx) (f3 : BitVec 3) (rd : RegIdx) :
    decode (encodeI imm rs1 f3 rd opJalr) =
      if f3 = 0b000#3 then .jalr rd rs1 imm else .unimplemented (encodeI imm rs1 f3 rd opJalr) := by
  obtain ⟨hop, hrd, hf3, hrs1⟩ := encodeI_fields imm rs1 f3 rd opJalr
  rw [decode_of_opJalr hop, decodeJalr, hrd, hf3, hrs1, immIField_encodeI]

/-- A B-type word with an even offset is the branch its funct3 names (R113). -/
theorem decode_encodeB_opBranch {imm : BitVec 13} (heven : imm.getLsbD 0 = false) (rs2 rs1 : RegIdx) (f3 : BitVec 3) :
    decode (encodeB imm rs2 rs1 f3 opBranch) =
      if f3 = 0b000#3 then .beq rs1 rs2 imm
      else if f3 = 0b001#3 then .bne rs1 rs2 imm
      else if f3 = 0b100#3 then .blt rs1 rs2 imm
      else if f3 = 0b101#3 then .bge rs1 rs2 imm
      else if f3 = 0b110#3 then .bltu rs1 rs2 imm
      else if f3 = 0b111#3 then .bgeu rs1 rs2 imm
      else .unimplemented (encodeB imm rs2 rs1 f3 opBranch) := by
  obtain ⟨hop, hf3, hrs1, hrs2⟩ := encodeB_fields imm rs2 rs1 f3 opBranch
  rw [decode_of_opBranch hop, decodeBranch, hf3, hrs1, hrs2, immBField_encodeB imm rs2 rs1 f3 opBranch heven]

end Sys2Proof

namespace Sys2Proof.Machine

/-! ## Targets as integers modulo 2^32 -/

/-- A word plus a sign-extended immediate, modulo 2^32 (R13). -/
theorem add_signExtend_word {n : Nat} (a : Word) (imm : BitVec n) :
    a + imm.signExtend 32 = BitVec.ofInt 32 (a.toNat + imm.toInt) := by
  rw [BitVec.ofInt_add, BitVec.ofInt_natCast, BitVec.ofNat_toNat, BitVec.setWidth_eq, BitVec.signExtend]

/-- Clearing bit 0 after narrowing to a word is narrowing the even integer below. -/
theorem align_half_ofInt (z : Int) : align .half (BitVec.ofInt 32 z) = BitVec.ofInt 32 (2 * (z / 2)) := by
  apply BitVec.eq_of_toNat_eq
  rw [toNat_align, BitVec.toNat_ofInt, BitVec.toNat_ofInt, Width.bytes]
  omega

/-- JALR's target: the sum modulo 2^32, then bit 0 cleared (R162). -/
theorem State.jalrTarget_eq (s : State) (rs1 : RegIdx) (imm : BitVec 12) :
    s.jalrTarget rs1 imm = BitVec.ofInt 32 (2 * (((s.readReg rs1).toNat + imm.toInt) / 2)) := by
  calc s.jalrTarget rs1 imm
      = align .half (s.readReg rs1 + imm.signExtend 32) := rfl
    _ = _ := by rw [add_signExtend_word, align_half_ofInt]

theorem exec_jalr (rd rs1 : RegIdx) (imm : BitVec 12) (s : State) :
    exec (.jalr rd rs1 imm) s = .next (s.linkAndJump rd (s.jalrTarget rs1 imm)) := rfl

/-! ## Conditions as comparisons -/

section Conditions
variable (a b : Word)

theorem condEq_iff : condEq a b = true ↔ a = b := beq_iff_eq

theorem condLtS_iff : condLtS a b = true ↔ a.toInt < b.toInt := BitVec.slt_iff_toInt_lt

theorem condLtU_iff : condLtU a b = true ↔ a.toNat < b.toNat := BitVec.ult_iff_lt

theorem not_condEq_iff : (!condEq a b) = true ↔ a ≠ b := by
  rw [Bool.not_eq_true', ← Bool.not_eq_true, condEq_iff]

theorem not_condLtS_iff : (!condLtS a b) = true ↔ b.toInt ≤ a.toInt := by
  rw [Bool.not_eq_true', ← Bool.not_eq_true, condLtS_iff, Int.not_lt]

theorem not_condLtU_iff : (!condLtU a b) = true ↔ b.toNat ≤ a.toNat := by
  rw [Bool.not_eq_true', ← Bool.not_eq_true, condLtU_iff, Nat.not_lt]

end Conditions

end Sys2Proof.Machine

namespace Sys2Proof.Claims

open Sys2Proof Sys2Proof.Machine

/-- An instruction whose effect is `branch` on a test of `cond` branches on `cond`. -/
theorem branches_of_branch {i : Instr} {s : State} {imm : BitVec 13} {test : Bool} {cond : Prop}
    (h : exec i s = .next (s.branch test imm)) (htest : test = true ↔ cond) : Branches i s imm cond := by
  refine ⟨_, h, fun hc => ?taken, fun hc => ?notTaken, fun r => State.readReg_congr (by simp) r, fun a => by simp,
    by simp [SameControl], by simp [SameOutputs]⟩
  case taken => rw [State.branch_pc, if_pos (htest.mpr hc), immB, add_signExtend_word]
  case notTaken => rw [State.branch_pc, if_neg (hc ∘ htest.mp)]

end Sys2Proof.Claims

namespace Sys2Proof.Proofs

open Sys2Proof Sys2Proof.Machine Sys2Proof.Claims

/-- Settles O10: the word is of the I-type format, the effect is a `linkAndJump` from the state before the write, and
its target is the exact sum with bit 0 cleared. -/
theorem jalrLinksAndJumps : Obligations.JalrLinksAndJumps := by
  intro s rd rs1 imm f3
  refine ⟨decode_encodeI_opJalr imm rs1 0b000#3 rd, fun hf3 => ?_, _, exec_jalr rd rs1 imm s, ?_, ?_⟩
  · exact (decode_encodeI_opJalr imm rs1 f3 rd).trans (if_neg hf3)
  · exact wroteReg_setPc s rd s.nextPc (s.jalrTarget rs1 imm)
  · rw [State.linkAndJump_pc, State.jalrTarget_eq]

/-- Settles O12: the word is of the B-type format, each effect is a `branch`, and each test is the comparison of the two
registers that the statement names. -/
theorem branchesGoWhereTheConditionSays : Obligations.BranchesGoWhereTheConditionSays := by
  intro s rs1 rs2 imm
  refine ⟨fun heven f3 => decode_encodeB_opBranch heven rs2 rs1 f3, ?beq, ?bne, ?blt, ?bge, ?bltu, ?bgeu⟩
  case beq => exact branches_of_branch rfl (condEq_iff _ _)
  case bne => exact branches_of_branch rfl (not_condEq_iff _ _)
  case blt => exact branches_of_branch rfl (condLtS_iff _ _)
  case bge => exact branches_of_branch rfl (not_condLtS_iff _ _)
  case bltu => exact branches_of_branch rfl (condLtU_iff _ _)
  case bgeu => exact branches_of_branch rfl (not_condLtU_iff _ _)

end Sys2Proof.Proofs
end

