-- ==== Sys2Proof/Proofs/Family43LoadStore.lean ====
section
/-! The three stores (43_load_store.md R186 to R188): what a word of their opcode decodes to, and, for every
instruction whose effect is a `MemWrite`, what that write is in the words of the statements. -/

namespace Sys2Proof

/-! ## The words of the opcode -/

theorem decode_of_opStore {w : Word} (h : opcodeField w = opStore) : decode w = decodeStore w := by
  obtain ⟨hiret, hhalt, hecall, hebreak⟩ := ne_exactWords_of_opcodeField h (by decide)
  rw [decode, if_neg hiret, if_neg hhalt, if_neg hecall, if_neg hebreak, h]
  rfl

/-- An S-type word of the opcode is the store its funct3 names (R113). -/
theorem decode_encodeS_opStore (imm : BitVec 12) (rs2 rs1 : RegIdx) (f3 : BitVec 3) :
    decode (encodeS imm rs2 rs1 f3 opStore) =
      if f3 = 0b000#3 then .sb rs1 rs2 imm
      else if f3 = 0b001#3 then .sh rs1 rs2 imm
      else if f3 = 0b010#3 then .sw rs1 rs2 imm
      else .unimplemented (encodeS imm rs2 rs1 f3 opStore) := by
  obtain ⟨hop, hf3, hrs1, hrs2⟩ := encodeS_fields imm rs2 rs1 f3 opStore
  rw [decode_of_opStore hop, decodeStore, hf3, hrs1, hrs2, immSField_encodeS]

end Sys2Proof

namespace Sys2Proof.Machine

/-! ## What the three execute as -/

section
variable (rs1 rs2 : RegIdx) (imm : BitVec 12) (s : State)

theorem exec_sb :
    exec (.sb rs1 rs2 imm) s = .next (s.memWrite .byte (s.storeAddr rs1 imm) (s.readReg rs2)).advance := rfl

theorem exec_sh :
    exec (.sh rs1 rs2 imm) s = .next (s.memWrite .half (s.storeAddr rs1 imm) (s.readReg rs2)).advance := rfl

theorem exec_sw :
    exec (.sw rs1 rs2 imm) s = .next (s.memWrite .word (s.storeAddr rs1 imm) (s.readReg rs2)).advance := rfl

end

end Sys2Proof.Machine

namespace Sys2Proof.Claims

open Sys2Proof Sys2Proof.Machine

/-! ## One `MemWrite` -/

/-- An instruction whose effect is `MemWrite`, then the next instruction, stores at the aligned address (R74). -/
theorem stores_of_memWrite {i : Instr} {s : State} {w : Width} {addr v : Word} (hwf : s.mem.wf)
    (h : exec i s = .next (s.memWrite w addr v).advance) : Stores i s w (align w addr) v := by
  have hread := State.read_memWrite hwf w addr v
  refine ⟨_, h, by simp, fun r => by simp, by simp [SameControl], by simp, fun hs k hk => ?inside,
    fun b hb => ?outside, ?emitted⟩
  case inside => rw [State.advance_mem, hread, if_pos ⟨hs, by omega, by omega⟩, Nat.add_sub_cancel_left]
  case outside => rw [State.advance_mem, hread, if_neg hb]
  case emitted => exact State.memWrite_serialOut s w addr v

end Sys2Proof.Claims

namespace Sys2Proof.Proofs

open Sys2Proof Sys2Proof.Machine Sys2Proof.Claims

/-- Settles O16: the word is of the S-type format, and each effect is a `MemWrite` of its width at the effective
address. -/
theorem storeEffects : Obligations.StoreEffects := by
  intro s rs1 rs2 imm hwf
  refine ⟨decode_encodeS_opStore imm rs2 rs1 0b000#3, decode_encodeS_opStore imm rs2 rs1 0b001#3,
    decode_encodeS_opStore imm rs2 rs1 0b010#3, ?sb, ?sh, ?sw⟩
  case sb => exact stores_of_memWrite hwf (exec_sb rs1 rs2 imm s)
  case sh => exact stores_of_memWrite hwf (exec_sh rs1 rs2 imm s)
  case sw => exact stores_of_memWrite hwf (exec_sw rs1 rs2 imm s)

end Sys2Proof.Proofs
end

