-- ==== Sys2Proof/Proofs/Family44AluImmediate.lean ====
section
/-! The register-immediate instructions (44_alu_immediate.md R200 to R208): what the words of their opcode decode to,
the bits and the value of `immI`, and the operations of R13 on exact integers. -/

namespace Sys2Proof

/-! ## The words of the opcode -/

theorem decode_of_opAluImm {w : Word} (h : opcodeField w = opAluImm) : decode w = decodeAluImm w := by
  obtain ⟨hiret, hhalt, hecall, hebreak⟩ := ne_exactWords_of_opcodeField h (by decide)
  rw [decode, if_neg hiret, if_neg hhalt, if_neg hecall, if_neg hebreak, h]
  rfl

/-- An I-type word of the opcode, with the funct3 of no shift, is the instruction its funct3 names (R113). -/
theorem decode_encodeI_opAluImm (imm : BitVec 12) (rs1 : RegIdx) (f3 : BitVec 3) (rd : RegIdx)
    (hleft : f3 ≠ 0b001#3 := by decide) (hright : f3 ≠ 0b101#3 := by decide) :
    decode (encodeI imm rs1 f3 rd opAluImm) =
      if f3 = 0b000#3 then .addi rd rs1 imm
      else if f3 = 0b010#3 then .slti rd rs1 imm
      else if f3 = 0b011#3 then .sltiu rd rs1 imm
      else if f3 = 0b100#3 then .xori rd rs1 imm
      else if f3 = 0b110#3 then .ori rd rs1 imm
      else .andi rd rs1 imm := by
  obtain ⟨hop, hrd, hf3, hrs1⟩ := encodeI_fields imm rs1 f3 rd opAluImm
  rw [decode_of_opAluImm hop, decodeAluImm, hrd, hf3, hrs1, immIField_encodeI]
  simp only [hleft, hright, false_and, if_false]
  split_ifs
  -- The eight values of funct3 are used up.
  case neg => bv_omega
  all_goals rfl

section Shifts
variable (f7 : BitVec 7) (sh : BitVec 5) (rs1 rd : RegIdx)

/-- The left shift is SLLI with funct7 0000000 only (R114). -/
theorem decode_encodeR_opAluImm_left :
    decode (encodeR f7 sh rs1 0b001#3 rd opAluImm) =
      if f7 = 0b0000000#7 then .slli rd rs1 sh else .unimplemented (encodeR f7 sh rs1 0b001#3 rd opAluImm) := by
  obtain ⟨hop, hrd, hf3, hrs1, hrs2, hf7⟩ := encodeR_fields f7 sh rs1 0b001#3 rd opAluImm
  rw [decode_of_opAluImm hop, decodeAluImm, hrd, hf3, hrs1, hrs2, hf7]
  simp

/-- The right shift is SRLI or SRAI by its funct7, and an unimplemented word with any other (R114). -/
theorem decode_encodeR_opAluImm_right :
    decode (encodeR f7 sh rs1 0b101#3 rd opAluImm) =
      if f7 = 0b0000000#7 then .srli rd rs1 sh
      else if f7 = 0b0100000#7 then .srai rd rs1 sh
      else .unimplemented (encodeR f7 sh rs1 0b101#3 rd opAluImm) := by
  obtain ⟨hop, hrd, hf3, hrs1, hrs2, hf7⟩ := encodeR_fields f7 sh rs1 0b101#3 rd opAluImm
  rw [decode_of_opAluImm hop, decodeAluImm, hrd, hf3, hrs1, hrs2, hf7]
  simp

end Shifts

end Sys2Proof

namespace Sys2Proof.Machine

/-! ## The immediate -/

/-- `immI` is the field's own value (R104). -/
@[simp] theorem toInt_immI (imm : BitVec 12) : (immI imm).toInt = imm.toInt :=
  BitVec.toInt_signExtend_of_le (by decide)

/-- Bits 31:11 of `immI` are copies of the field's top bit (R104). -/
theorem getLsbD_immI (imm : BitVec 12) {k : Nat} (hk : k < 32) : (immI imm).getLsbD k = imm.getLsbD (min k 11) := by
  obtain hlow | hhigh := Nat.le_total k 11
  · rw [Nat.min_eq_left hlow]
    exact getLsbD_signExtend_word_low imm hlow
  · rw [Nat.min_eq_right hhigh]
    exact getLsbD_signExtend_word_high imm hhigh hk

/-! ## The operations over exact integers (R13) -/

/-- The sum modulo 2^32 (R230). -/
theorem add_eq_ofInt (a b : Word) : a + b = BitVec.ofInt 32 (a.toInt + b.toInt) := by
  rw [BitVec.ofInt_add, BitVec.ofInt_toInt, BitVec.ofInt_toInt]

theorem wordOfCond_eq_ite {c : Bool} {p : Prop} [Decidable p] (h : c = true ↔ p) :
    wordOfCond c = if p then 1#32 else 0#32 := by
  simp only [wordOfCond, h]

section Shifts
variable (a : Word) (n : BitVec 5)

theorem toNat_shiftLeft : (shiftLeft a n).toNat = a.toNat * 2 ^ n.toNat % 2 ^ 32 := by
  rw [shiftLeft, BitVec.toNat_shiftLeft, Nat.shiftLeft_eq]

theorem toNat_shiftRightU : (shiftRightU a n).toNat = a.toNat / 2 ^ n.toNat := by
  rw [shiftRightU, BitVec.toNat_ushiftRight, Nat.shiftRight_eq_div_pow]

/-- Copies of bit 31 shifted in divide the signed value, rounding down. -/
theorem toInt_shiftRightS : (shiftRightS a n).toInt = a.toInt / 2 ^ n.toNat := by
  rw [shiftRightS, BitVec.toInt_sshiftRight, Int.shiftRight_eq_div_pow]
  norm_cast

end Shifts

end Sys2Proof.Machine

namespace Sys2Proof.Proofs

open Sys2Proof Sys2Proof.Machine Sys2Proof.Claims

/-- Settles O24: the words are of the I-type format, or of the R-type one where funct7 tells the shifts apart; each
effect is a `writeResult`, and the values are the operations of R13 on `x[rs1]` and `immI` or the shift amount. -/
theorem aluImmediateResults : Obligations.AluImmediateResults := by
  intro s rd rs1 imm sh
  refine ⟨decode_encodeI_opAluImm imm rs1 0b000#3 rd, decode_encodeI_opAluImm imm rs1 0b010#3 rd,
    decode_encodeI_opAluImm imm rs1 0b100#3 rd, decode_encodeI_opAluImm imm rs1 0b110#3 rd,
    decode_encodeI_opAluImm imm rs1 0b111#3 rd,
    decode_encodeR_opAluImm_left 0b0000000#7 sh rs1 rd, decode_encodeR_opAluImm_right 0b0000000#7 sh rs1 rd,
    decode_encodeR_opAluImm_right 0b0100000#7 sh rs1 rd, ?addi, ?slti, ?xori, ?ori, ?andi, ?slli, ?srli, ?srai⟩
  case addi => exact computes_of_writeResult rfl (by rw [add_eq_ofInt, toInt_immI])
  case slti => exact computes_of_writeResult rfl (wordOfCond_eq_ite (by rw [condLtS_iff, toInt_immI]))
  case xori => exact computes_of_writeResult rfl fun k hk => by rw [BitVec.getLsbD_xor, getLsbD_immI imm hk]
  case ori => exact computes_of_writeResult rfl fun k hk => by rw [BitVec.getLsbD_or, getLsbD_immI imm hk]
  case andi => exact computes_of_writeResult rfl fun k hk => by rw [BitVec.getLsbD_and, getLsbD_immI imm hk]
  case slli => exact computes_of_writeResult rfl (toNat_shiftLeft _ sh)
  case srli => exact computes_of_writeResult rfl (toNat_shiftRightU _ sh)
  case srai => exact computes_of_writeResult rfl (toInt_shiftRightS _ sh)

end Sys2Proof.Proofs
end

