-- ==== Sys2Proof/Proofs/Family45AluRegister.lean ====
section
/-! The register-register instructions (45_alu_register.md R220 to R229): what the words of their opcode decode to, the
exact difference, and the shift amount as a number. -/

namespace Sys2Proof

/-! ## The words of the opcode -/

theorem decode_of_opAluReg {w : Word} (h : opcodeField w = opAluReg) : decode w = decodeAluReg w := by
  obtain ⟨hiret, hhalt, hecall, hebreak⟩ := ne_exactWords_of_opcodeField h (by decide)
  rw [decode, if_neg hiret, if_neg hhalt, if_neg hecall, if_neg hebreak, h]
  rfl

section
variable (rs2 rs1 : RegIdx) (f3 : BitVec 3) (rd : RegIdx)

/-- With funct7 0000000 an R-type word of the opcode is the instruction its funct3 names (R113). -/
theorem decode_encodeR_opAluReg_base :
    decode (encodeR 0b0000000#7 rs2 rs1 f3 rd opAluReg) =
      if f3 = 0b000#3 then .add rd rs1 rs2
      else if f3 = 0b001#3 then .sll rd rs1 rs2
      else if f3 = 0b010#3 then .slt rd rs1 rs2
      else if f3 = 0b011#3 then .sltu rd rs1 rs2
      else if f3 = 0b100#3 then .xor rd rs1 rs2
      else if f3 = 0b101#3 then .srl rd rs1 rs2
      else if f3 = 0b110#3 then .or rd rs1 rs2
      else .and rd rs1 rs2 := by
  obtain ⟨hop, hrd, hf3, hrs1, hrs2, hf7⟩ := encodeR_fields 0b0000000#7 rs2 rs1 f3 rd opAluReg
  rw [decode_of_opAluReg hop, decodeAluReg, hrd, hf3, hrs1, hrs2, hf7, if_pos rfl]

/-- With funct7 0100000 it is SUB or SRA by its funct3, and an unimplemented word with any other (R114). -/
theorem decode_encodeR_opAluReg_alternate :
    decode (encodeR 0b0100000#7 rs2 rs1 f3 rd opAluReg) =
      if f3 = 0b000#3 then .sub rd rs1 rs2
      else if f3 = 0b101#3 then .sra rd rs1 rs2
      else .unimplemented (encodeR 0b0100000#7 rs2 rs1 f3 rd opAluReg) := by
  obtain ⟨hop, hrd, hf3, hrs1, hrs2, hf7⟩ := encodeR_fields 0b0100000#7 rs2 rs1 f3 rd opAluReg
  rw [decode_of_opAluReg hop, decodeAluReg, hrd, hf3, hrs1, hrs2, hf7, if_neg (by decide), if_pos rfl]

end

end Sys2Proof

namespace Sys2Proof.Machine

/-! ## The operations over exact integers (R13) -/

/-- The difference modulo 2^32 (R230). -/
theorem sub_eq_ofInt (a b : Word) : a - b = BitVec.ofInt 32 (a.toInt - b.toInt) :=
  BitVec.eq_of_toInt_eq (by rw [BitVec.toInt_sub, BitVec.toInt_ofInt])

/-- The low 5 bits are the remainder by 32, so an amount of 32 is 0. -/
@[simp] theorem toNat_shiftAmount (v : Word) : (shiftAmount v).toNat = v.toNat % 32 := by
  rw [shiftAmount, BitVec.extractLsb'_toNat, Nat.shiftRight_zero]

end Sys2Proof.Machine

namespace Sys2Proof.Proofs

open Sys2Proof Sys2Proof.Machine Sys2Proof.Claims

/-- Settles O26: the words are of the R-type format, each effect is a `writeResult`, and the values are the operations
of R13 on `x[rs1]` and `x[rs2]`, or on `x[rs1]` and the shift amount in `x[rs2]`. -/
theorem aluRegisterResults : Obligations.AluRegisterResults := by
  intro s rd rs1 rs2
  have hbase := fun f3 => decode_encodeR_opAluReg_base rs2 rs1 f3 rd
  have halternate := fun f3 => decode_encodeR_opAluReg_alternate rs2 rs1 f3 rd
  refine ⟨hbase 0b000#3, halternate 0b000#3, hbase 0b001#3, hbase 0b010#3, hbase 0b011#3, hbase 0b100#3,
    hbase 0b101#3, halternate 0b101#3, hbase 0b110#3, hbase 0b111#3,
    ?add, ?sub, ?sll, ?slt, ?sltu, ?xor, ?srl, ?sra, ?or, ?and⟩
  case add => exact computes_of_writeResult rfl (add_eq_ofInt _ _)
  case sub => exact computes_of_writeResult rfl (sub_eq_ofInt _ _)
  case sll => exact computes_of_writeResult rfl (by rw [toNat_shiftLeft, toNat_shiftAmount])
  case slt => exact computes_of_writeResult rfl (wordOfCond_eq_ite (condLtS_iff _ _))
  case sltu => exact computes_of_writeResult rfl (wordOfCond_eq_ite (condLtU_iff _ _))
  case xor => exact computes_of_writeResult rfl fun k _ => BitVec.getLsbD_xor
  case srl => exact computes_of_writeResult rfl (by rw [toNat_shiftRightU, toNat_shiftAmount])
  case sra => exact computes_of_writeResult rfl (by rw [toInt_shiftRightS, toNat_shiftAmount])
  case or => exact computes_of_writeResult rfl fun k _ => BitVec.getLsbD_or
  case and => exact computes_of_writeResult rfl fun k _ => BitVec.getLsbD_and

end Sys2Proof.Proofs
end


/-! ## Decoder and encoder (30_encoding.md)

That a word is what its own decoding encodes goes through the fields: the encoder's formats put back together the
fields the decoder takes out. A row of the table fixes the fields of its words, so it says which instruction encodes to
a word of the row, and that instruction is what the word decodes to. -/

namespace Sys2Proof

/-! ### The words of JAL, of the loads, and of FENCE and FENCE.I -/

theorem decode_of_opJal {w : Word} (h : opcodeField w = opJal) (hw : w ≠ haltWord) :
    decode w = .jal (rdField w) (immJField w) := by
  have hiret : w ≠ iretWord := by rintro rfl; exact absurd h (by decide)
  have hecall : w ≠ ecallWord := by rintro rfl; exact absurd h (by decide)
  have hebreak : w ≠ ebreakWord := by rintro rfl; exact absurd h (by decide)
  rw [decode, if_neg hiret, if_neg hw, if_neg hecall, if_neg hebreak, h]
  rfl

theorem decode_of_opLoad {w : Word} (h : opcodeField w = opLoad) : decode w = decodeLoad w := by
  obtain ⟨hiret, hhalt, hecall, hebreak⟩ := ne_exactWords_of_opcodeField h (by decide)
  rw [decode, if_neg hiret, if_neg hhalt, if_neg hecall, if_neg hebreak, h]
  rfl

theorem decode_of_opMiscMem {w : Word} (h : opcodeField w = opMiscMem) : decode w = decodeMiscMem w := by
  obtain ⟨hiret, hhalt, hecall, hebreak⟩ := ne_exactWords_of_opcodeField h (by decide)
  rw [decode, if_neg hiret, if_neg hhalt, if_neg hecall, if_neg hebreak, h]
  rfl

/-- A J-type word with an even offset is a JAL, but for the one word that is the halt row (R112, log 4). -/
theorem decode_encodeJ_opJal {imm : BitVec 21} {rd : RegIdx} (heven : imm.getLsbD 0 = false)
    (hhalt : ¬ (rd = 0#5 ∧ imm = 0#21)) : decode (encodeJ imm rd opJal) = .jal rd imm := by
  obtain ⟨hop, hrd⟩ := encodeJ_fields imm rd opJal
  have himm := immJField_encodeJ imm rd opJal heven
  have hw : encodeJ imm rd opJal ≠ haltWord := by
    intro hw
    rw [hw] at hrd himm
    exact hhalt ⟨hrd.symm, himm.symm⟩
  rw [decode_of_opJal hop hw, hrd, himm]

/-- An I-type word of the opcode is the load its funct3 names (R113). -/
theorem decode_encodeI_opLoad (imm : BitVec 12) (rs1 : RegIdx) (f3 : BitVec 3) (rd : RegIdx) :
    decode (encodeI imm rs1 f3 rd opLoad) =
      if f3 = 0b000#3 then .lb rd rs1 imm
      else if f3 = 0b001#3 then .lh rd rs1 imm
      else if f3 = 0b010#3 then .lw rd rs1 imm
      else if f3 = 0b100#3 then .lbu rd rs1 imm
      else if f3 = 0b101#3 then .lhu rd rs1 imm
      else .unimplemented (encodeI imm rs1 f3 rd opLoad) := by
  obtain ⟨hop, hrd, hf3, hrs1⟩ := encodeI_fields imm rs1 f3 rd opLoad
  rw [decode_of_opLoad hop, decodeLoad, hrd, hf3, hrs1, immIField_encodeI]

/-- An I-type word of the opcode is FENCE or FENCE.I by its funct3 (R241). -/
theorem decode_encodeI_opMiscMem (imm : BitVec 12) (rs1 : RegIdx) (f3 : BitVec 3) (rd : RegIdx) :
    decode (encodeI imm rs1 f3 rd opMiscMem) =
      if f3 = 0b000#3 then .fence rd rs1 imm
      else if f3 = 0b001#3 then .fencei rd rs1 imm
      else .unimplemented (encodeI imm rs1 f3 rd opMiscMem) := by
  obtain ⟨hop, hrd, hf3, hrs1⟩ := encodeI_fields imm rs1 f3 rd opMiscMem
  rw [decode_of_opMiscMem hop, decodeMiscMem, hrd, hf3, hrs1, immIField_encodeI]

/-! ### A word from its fields, where some of them are known -/

section
variable {w : Word} {op : BitVec 7} (hop : opcodeField w = op)
include hop

theorem encodeU_eq : encodeU (immUField w) (rdField w) op = w := by
  rw [← hop, encodeU_of_fields]

theorem encodeJ_eq : encodeJ (immJField w) (rdField w) op = w := by
  rw [← hop, encodeJ_of_fields]

variable {f3 : BitVec 3} (hf3 : funct3Field w = f3)
include hf3

theorem encodeI_eq : encodeI (immIField w) (rs1Field w) f3 (rdField w) op = w := by
  rw [← hop, ← hf3, encodeI_of_fields]

theorem encodeS_eq : encodeS (immSField w) (rs2Field w) (rs1Field w) f3 op = w := by
  rw [← hop, ← hf3, encodeS_of_fields]

theorem encodeB_eq : encodeB (immBField w) (rs2Field w) (rs1Field w) f3 op = w := by
  rw [← hop, ← hf3, encodeB_of_fields]

theorem encodeR_eq {f7 : BitVec 7} (hf7 : funct7Field w = f7) :
    encodeR f7 (rs2Field w) (rs1Field w) f3 (rdField w) op = w := by
  rw [← hop, ← hf3, ← hf7, encodeR_of_fields]

end

/-! ### Encoding what a word decodes to -/

theorem encode_ite {w : Word} {c : Prop} [Decidable c] {i j : Instr} (hi : c → encode i = w)
    (hj : ¬ c → encode j = w) : encode (if c then i else j) = w := by
  split_ifs with h
  · exact hi h
  · exact hj h

section
variable {w : Word}

theorem encode_decodeJalr (hop : opcodeField w = opJalr) : encode (decodeJalr w) = w :=
  encode_ite (encodeI_eq hop) fun _ => rfl

theorem encode_decodeBranch (hop : opcodeField w = opBranch) : encode (decodeBranch w) = w :=
  encode_ite (encodeB_eq hop) fun _ => encode_ite (encodeB_eq hop) fun _ => encode_ite (encodeB_eq hop) fun _ =>
    encode_ite (encodeB_eq hop) fun _ => encode_ite (encodeB_eq hop) fun _ => encode_ite (encodeB_eq hop) fun _ => rfl

theorem encode_decodeLoad (hop : opcodeField w = opLoad) : encode (decodeLoad w) = w :=
  encode_ite (encodeI_eq hop) fun _ => encode_ite (encodeI_eq hop) fun _ => encode_ite (encodeI_eq hop) fun _ =>
    encode_ite (encodeI_eq hop) fun _ => encode_ite (encodeI_eq hop) fun _ => rfl

theorem encode_decodeStore (hop : opcodeField w = opStore) : encode (decodeStore w) = w :=
  encode_ite (encodeS_eq hop) fun _ => encode_ite (encodeS_eq hop) fun _ => encode_ite (encodeS_eq hop) fun _ => rfl

theorem encode_decodeAluImm (hop : opcodeField w = opAluImm) : encode (decodeAluImm w) = w :=
  encode_ite (encodeI_eq hop) fun _ => encode_ite (encodeI_eq hop) fun _ => encode_ite (encodeI_eq hop) fun _ =>
    encode_ite (encodeI_eq hop) fun _ => encode_ite (encodeI_eq hop) fun _ => encode_ite (encodeI_eq hop) fun _ =>
    encode_ite (fun h => encodeR_eq hop h.1 h.2) fun _ => encode_ite (fun h => encodeR_eq hop h.1 h.2) fun _ =>
    encode_ite (fun h => encodeR_eq hop h.1 h.2) fun _ => rfl

theorem encode_decodeAluReg (hop : opcodeField w = opAluReg) : encode (decodeAluReg w) = w := by
  refine encode_ite (fun hf7 => ?base) fun _ => encode_ite (fun hf7 => ?alternate) fun _ => rfl
  case base =>
    refine encode_ite (encodeR_eq hop · hf7) fun h0 => encode_ite (encodeR_eq hop · hf7) fun h1 =>
      encode_ite (encodeR_eq hop · hf7) fun h2 => encode_ite (encodeR_eq hop · hf7) fun h3 =>
      encode_ite (encodeR_eq hop · hf7) fun h4 => encode_ite (encodeR_eq hop · hf7) fun h5 =>
      encode_ite (encodeR_eq hop · hf7) fun h6 => encodeR_eq hop ?_ hf7
    -- The eighth value of funct3 is what the seven tests leave.
    bv_omega
  case alternate =>
    exact encode_ite (encodeR_eq hop · hf7) fun _ => encode_ite (encodeR_eq hop · hf7) fun _ => rfl

theorem encode_decodeMiscMem (hop : opcodeField w = opMiscMem) : encode (decodeMiscMem w) = w :=
  encode_ite (encodeI_eq hop) fun _ => encode_ite (encodeI_eq hop) fun _ => rfl

end

/-- Decoding drops no bit of a word. -/
theorem encode_decode (w : Word) : encode (decode w) = w :=
  encode_ite Eq.symm fun _ => encode_ite Eq.symm fun _ => encode_ite Eq.symm fun _ => encode_ite Eq.symm fun _ =>
    encode_ite encodeU_eq fun _ => encode_ite encodeU_eq fun _ => encode_ite encodeJ_eq fun _ =>
    encode_ite encode_decodeJalr fun _ => encode_ite encode_decodeBranch fun _ =>
    encode_ite encode_decodeLoad fun _ => encode_ite encode_decodeStore fun _ =>
    encode_ite encode_decodeAluImm fun _ => encode_ite encode_decodeAluReg fun _ =>
    encode_ite encode_decodeMiscMem fun _ => rfl

/-! ### Rows of the table -/

/-- `i` with its operands taken from the fields of `w`. -/
def Instr.withFieldsOf (w : Word) : Instr → Instr
  | .lui _ _ => .lui (rdField w) (immUField w)
  | .auipc _ _ => .auipc (rdField w) (immUField w)
  | .jal _ _ => .jal (rdField w) (immJField w)
  | .jalr _ _ _ => .jalr (rdField w) (rs1Field w) (immIField w)
  | .beq _ _ _ => .beq (rs1Field w) (rs2Field w) (immBField w)
  | .bne _ _ _ => .bne (rs1Field w) (rs2Field w) (immBField w)
  | .blt _ _ _ => .blt (rs1Field w) (rs2Field w) (immBField w)
  | .bge _ _ _ => .bge (rs1Field w) (rs2Field w) (immBField w)
  | .bltu _ _ _ => .bltu (rs1Field w) (rs2Field w) (immBField w)
  | .bgeu _ _ _ => .bgeu (rs1Field w) (rs2Field w) (immBField w)
  | .lb _ _ _ => .lb (rdField w) (rs1Field w) (immIField w)
  | .lh _ _ _ => .lh (rdField w) (rs1Field w) (immIField w)
  | .lw _ _ _ => .lw (rdField w) (rs1Field w) (immIField w)
  | .lbu _ _ _ => .lbu (rdField w) (rs1Field w) (immIField w)
  | .lhu _ _ _ => .lhu (rdField w) (rs1Field w) (immIField w)
  | .sb _ _ _ => .sb (rs1Field w) (rs2Field w) (immSField w)
  | .sh _ _ _ => .sh (rs1Field w) (rs2Field w) (immSField w)
  | .sw _ _ _ => .sw (rs1Field w) (rs2Field w) (immSField w)
  | .addi _ _ _ => .addi (rdField w) (rs1Field w) (immIField w)
  | .slti _ _ _ => .slti (rdField w) (rs1Field w) (immIField w)
  | .sltiu _ _ _ => .sltiu (rdField w) (rs1Field w) (immIField w)
  | .xori _ _ _ => .xori (rdField w) (rs1Field w) (immIField w)
  | .ori _ _ _ => .ori (rdField w) (rs1Field w) (immIField w)
  | .andi _ _ _ => .andi (rdField w) (rs1Field w) (immIField w)
  | .slli _ _ _ => .slli (rdField w) (rs1Field w) (rs2Field w)
  | .srli _ _ _ => .srli (rdField w) (rs1Field w) (rs2Field w)
  | .srai _ _ _ => .srai (rdField w) (rs1Field w) (rs2Field w)
  | .add _ _ _ => .add (rdField w) (rs1Field w) (rs2Field w)
  | .sub _ _ _ => .sub (rdField w) (rs1Field w) (rs2Field w)
  | .sll _ _ _ => .sll (rdField w) (rs1Field w) (rs2Field w)
  | .slt _ _ _ => .slt (rdField w) (rs1Field w) (rs2Field w)
  | .sltu _ _ _ => .sltu (rdField w) (rs1Field w) (rs2Field w)
  | .xor _ _ _ => .xor (rdField w) (rs1Field w) (rs2Field w)
  | .srl _ _ _ => .srl (rdField w) (rs1Field w) (rs2Field w)
  | .sra _ _ _ => .sra (rdField w) (rs1Field w) (rs2Field w)
  | .or _ _ _ => .or (rdField w) (rs1Field w) (rs2Field w)
  | .and _ _ _ => .and (rdField w) (rs1Field w) (rs2Field w)
  | .fence _ _ _ => .fence (rdField w) (rs1Field w) (immIField w)
  | .fencei _ _ _ => .fencei (rdField w) (rs1Field w) (immIField w)
  | .iret => .iret
  | .halt => .halt
  | .ecall => .ecall
  | .ebreak => .ebreak
  | .unimplemented _ => .unimplemented w

@[simp] theorem Instr.row_withFieldsOf (w : Word) (i : Instr) : (i.withFieldsOf w).row = i.row := by
  cases i <;> rfl

section
variable {w : Word} {value mask : Word} {mnemonic : String} (h : Row.holds ⟨mnemonic, value, mask⟩ w = true)
include h

theorem and_mask_eq_of_holds : w &&& mask = value := beq_iff_eq.mp h

theorem value_eq_of_holds (hm : mask = BitVec.allOnes 32 := by rfl) : value = w := by
  rw [← and_mask_eq_of_holds h, hm, BitVec.and_allOnes]

/-- A field the mask covers is the row's. -/
theorem extractLsb'_eq_of_holds {start len : Nat} (hm : mask.extractLsb' start len = BitVec.allOnes len := by rfl) :
    w.extractLsb' start len = value.extractLsb' start len := by
  rw [← and_mask_eq_of_holds h, BitVec.extractLsb'_and, hm, BitVec.and_allOnes]

end

/-- A word of an instruction's row is what the instruction encodes to with the word's own fields. -/
theorem encode_withFieldsOf {w : Word} (i : Instr) (h : i.row.holds w = true) : encode (i.withFieldsOf w) = w := by
  cases i
  case lui | auipc => exact encodeU_eq (extractLsb'_eq_of_holds h)
  case jal => exact encodeJ_eq (extractLsb'_eq_of_holds h)
  case beq | bne | blt | bge | bltu | bgeu =>
    exact encodeB_eq (extractLsb'_eq_of_holds h) (extractLsb'_eq_of_holds h)
  case sb | sh | sw => exact encodeS_eq (extractLsb'_eq_of_holds h) (extractLsb'_eq_of_holds h)
  case jalr | lb | lh | lw | lbu | lhu | addi | slti | sltiu | xori | ori | andi | fence | fencei =>
    exact encodeI_eq (extractLsb'_eq_of_holds h) (extractLsb'_eq_of_holds h)
  case slli | srli | srai | add | sub | sll | slt | sltu | xor | srl | sra | or | and =>
    exact encodeR_eq (extractLsb'_eq_of_holds h) (extractLsb'_eq_of_holds h) (extractLsb'_eq_of_holds h)
  case iret | halt | ecall | ebreak => exact value_eq_of_holds h
  case unimplemented => rfl

/-- Every instruction's word lies in its row. -/
theorem holds_encode : (i : Instr) → i.row.holds (encode i) = true
  | .lui rd imm => Laws.EncodesItsRow.lui rd imm
  | .auipc rd imm => Laws.EncodesItsRow.auipc rd imm
  | .jal rd imm => Laws.EncodesItsRow.jal rd imm
  | .jalr rd rs1 imm => Laws.EncodesItsRow.jalr rd rs1 imm
  | .beq rs1 rs2 imm => Laws.EncodesItsRow.beq rs1 rs2 imm
  | .bne rs1 rs2 imm => Laws.EncodesItsRow.bne rs1 rs2 imm
  | .blt rs1 rs2 imm => Laws.EncodesItsRow.blt rs1 rs2 imm
  | .bge rs1 rs2 imm => Laws.EncodesItsRow.bge rs1 rs2 imm
  | .bltu rs1 rs2 imm => Laws.EncodesItsRow.bltu rs1 rs2 imm
  | .bgeu rs1 rs2 imm => Laws.EncodesItsRow.bgeu rs1 rs2 imm
  | .lb rd rs1 imm => Laws.EncodesItsRow.lb rd rs1 imm
  | .lh rd rs1 imm => Laws.EncodesItsRow.lh rd rs1 imm
  | .lw rd rs1 imm => Laws.EncodesItsRow.lw rd rs1 imm
  | .lbu rd rs1 imm => Laws.EncodesItsRow.lbu rd rs1 imm
  | .lhu rd rs1 imm => Laws.EncodesItsRow.lhu rd rs1 imm
  | .sb rs1 rs2 imm => Laws.EncodesItsRow.sb rs1 rs2 imm
  | .sh rs1 rs2 imm => Laws.EncodesItsRow.sh rs1 rs2 imm
  | .sw rs1 rs2 imm => Laws.EncodesItsRow.sw rs1 rs2 imm
  | .addi rd rs1 imm => Laws.EncodesItsRow.addi rd rs1 imm
  | .slti rd rs1 imm => Laws.EncodesItsRow.slti rd rs1 imm
  | .sltiu rd rs1 imm => Laws.EncodesItsRow.sltiu rd rs1 imm
  | .xori rd rs1 imm => Laws.EncodesItsRow.xori rd rs1 imm
  | .ori rd rs1 imm => Laws.EncodesItsRow.ori rd rs1 imm
  | .andi rd rs1 imm => Laws.EncodesItsRow.andi rd rs1 imm
  | .slli rd rs1 shamt => Laws.EncodesItsRow.slli rd rs1 shamt
  | .srli rd rs1 shamt => Laws.EncodesItsRow.srli rd rs1 shamt
  | .srai rd rs1 shamt => Laws.EncodesItsRow.srai rd rs1 shamt
  | .add rd rs1 rs2 => Laws.EncodesItsRow.add rd rs1 rs2
  | .sub rd rs1 rs2 => Laws.EncodesItsRow.sub rd rs1 rs2
  | .sll rd rs1 rs2 => Laws.EncodesItsRow.sll rd rs1 rs2
  | .slt rd rs1 rs2 => Laws.EncodesItsRow.slt rd rs1 rs2
  | .sltu rd rs1 rs2 => Laws.EncodesItsRow.sltu rd rs1 rs2
  | .xor rd rs1 rs2 => Laws.EncodesItsRow.xor rd rs1 rs2
  | .srl rd rs1 rs2 => Laws.EncodesItsRow.srl rd rs1 rs2
  | .sra rd rs1 rs2 => Laws.EncodesItsRow.sra rd rs1 rs2
  | .or rd rs1 rs2 => Laws.EncodesItsRow.or rd rs1 rs2
  | .and rd rs1 rs2 => Laws.EncodesItsRow.and rd rs1 rs2
  | .iret => Laws.EncodesItsRow.iret
  | .halt => Laws.EncodesItsRow.halt
  | .fence rd rs1 imm => Laws.EncodesItsRow.fence rd rs1 imm
  | .fencei rd rs1 imm => Laws.EncodesItsRow.fencei rd rs1 imm
  | .ecall => Laws.EncodesItsRow.ecall
  | .ebreak => Laws.EncodesItsRow.ebreak
  | .unimplemented word => Laws.EncodesItsRow.unimplemented word

/-- Every word lies in the row of what it decodes to. -/
theorem holds_decode (w : Word) : (decode w).row.holds w = true := by
  simpa only [encode_decode] using holds_encode (decode w)

theorem inNamedRow_iff (w : Word) : inNamedRow w = true ↔ ∃ r ∈ namedRows, r.holds w = true := List.any_eq_true

/-- A row but the catch-all is the row of an instruction that is no unimplemented word. -/
theorem exists_instr_of_mem_namedRows {r : Row} (hr : r ∈ namedRows) :
    ∃ i : Instr, i.row = r ∧ ∀ word, i ≠ .unimplemented word := by
  simp only [namedRows, transferRows, aluRows, specialRows, ← List.map_append, List.mem_map] at hr
  obtain ⟨i, hi, rfl⟩ := hr
  refine ⟨i, rfl, ?_⟩
  rintro word rfl
  simp at hi

/-- The row of an instruction is the catch-all only for an unimplemented word. -/
theorem Instr.row_mem_namedRows {i : Instr} (hi : ∀ word, i ≠ .unimplemented word) : i.row ∈ namedRows := by
  cases i
  case unimplemented word => exact absurd rfl (hi word)
  all_goals simp [Instr.row, namedRows, transferRows, aluRows, specialRows]

/-- A word in no row but the catch-all is unimplemented (R115). -/
theorem decode_of_not_inNamedRow {w : Word} (h : inNamedRow w = false) : decode w = .unimplemented w := by
  by_cases hd : ∃ word, decode w = .unimplemented word
  · obtain ⟨word, hd⟩ := hd
    have hw := encode_decode w
    rw [hd] at hw ⊢
    rw [show word = w from hw]
  · have hrow := Instr.row_mem_namedRows fun word hw => hd ⟨word, hw⟩
    rw [(inNamedRow_iff w).mpr ⟨_, hrow, holds_decode w⟩] at h
    contradiction

/-- A well-formed instruction is what its word decodes to. -/
theorem decode_encode {i : Instr} (h : i.wf = true) : decode (encode i) = i := by
  cases i
  case lui rd imm => exact decode_encodeU_opLui imm rd
  case auipc rd imm => exact decode_encodeU_opAuipc imm rd
  case jal rd imm =>
    obtain ⟨heven, hhalt⟩ : imm.getLsbD 0 = false ∧ (rd = 0#5 → ¬ imm = 0#21) := by
      simpa [Instr.wf, ← imp_iff_not_or] using h
    exact decode_encodeJ_opJal heven fun hrd => hhalt hrd.1 hrd.2
  case jalr rd rs1 imm => exact decode_encodeI_opJalr imm rs1 _ rd
  case beq | bne | blt | bge | bltu | bgeu => exact decode_encodeB_opBranch (by simpa [Instr.wf] using h) _ _ _
  case lb | lh | lw | lbu | lhu => exact decode_encodeI_opLoad _ _ _ _
  case sb | sh | sw => exact decode_encodeS_opStore _ _ _ _
  case addi | slti | sltiu | xori | ori | andi => exact decode_encodeI_opAluImm _ _ _ _
  case slli => exact decode_encodeR_opAluImm_left _ _ _ _
  case srli | srai => exact decode_encodeR_opAluImm_right _ _ _ _
  case add | sll | slt | sltu | xor | srl | or | and => exact decode_encodeR_opAluReg_base _ _ _ _
  case sub | sra => exact decode_encodeR_opAluReg_alternate _ _ _ _
  case iret | halt | ecall | ebreak => decide
  case fence | fencei => exact decode_encodeI_opMiscMem _ _ _ _
  case unimplemented word =>
    have hrow : inNamedRow word = false := by simpa [Instr.wf] using h
    exact decode_of_not_inNamedRow hrow

/-- An instruction with the fields of a word is well-formed, but for `JAL x0, 0` and an unimplemented word. -/
theorem Instr.wf_withFieldsOf (w : Word) {i : Instr} (hi : ∀ word, i ≠ .unimplemented word)
    (hjal : i.withFieldsOf w ≠ .jal 0#5 0#21) : (i.withFieldsOf w).wf = true := by
  cases i
  case unimplemented word => exact absurd rfl (hi word)
  case jal =>
    have hne : (rdField w == 0#5 && immJField w == 0#21) = false := by simpa [Instr.withFieldsOf] using hjal
    simp only [Instr.wf, Instr.withFieldsOf, immJField_even, hne, Bool.not_false, Bool.and_self]
  case beq | bne | blt | bge | bltu | bgeu =>
    simp only [Instr.wf, Instr.withFieldsOf, immBField_even, Bool.not_false]
  all_goals rfl

section
variable {w : Word} {i : Instr} (h : i.row.holds w = true)
include h

/-- The one word of the row of JAL that reads as `JAL x0, 0` is the halt word (R112). -/
theorem eq_haltWord_of_holds (hjal : i.withFieldsOf w = .jal 0#5 0#21) : w = haltWord := by
  rw [← encode_withFieldsOf i h, hjal]
  rfl

/-- A word of an instruction's row decodes to that instruction with the word's own fields, unless it is the halt word,
which lies in the row of JAL as well (log 4). -/
theorem decode_of_holds (hi : ∀ word, i ≠ .unimplemented word) (hjal : i.withFieldsOf w ≠ .jal 0#5 0#21) :
    decode w = i.withFieldsOf w := by
  rw [← decode_encode (Instr.wf_withFieldsOf w hi hjal), encode_withFieldsOf i h]

end

/-- Whatever a word decodes to is well-formed: a word of a row decodes to the instruction of the row with the word's
fields, whose offsets are even; a word of none to itself, unimplemented. -/
theorem wf_decode (w : Word) : (decode w).wf = true := by
  cases hrow : inNamedRow w
  case false => rw [decode_of_not_inNamedRow hrow, Instr.wf, hrow, Bool.not_false]
  case true =>
    obtain ⟨r, hr, h⟩ := (inNamedRow_iff w).mp hrow
    obtain ⟨i, rfl, hi⟩ := exists_instr_of_mem_namedRows hr
    by_cases hjal : i.withFieldsOf w = .jal 0#5 0#21
    · rw [eq_haltWord_of_holds h hjal]
      rfl
    · rw [decode_of_holds h hi hjal]
      exact Instr.wf_withFieldsOf w hi hjal

end Sys2Proof

namespace Sys2Proof.Proofs

open Sys2Proof Sys2Proof.Machine Sys2Proof.Claims

/-- Settles O1, by the format and the class of the instruction's word (`decode_encode`). -/
theorem decodeOfEncodeIsTheInstruction : Obligations.DecodeOfEncodeIsTheInstruction := fun _ => decode_encode

/-- Settles O2, branch by branch of the decoder (`encode_decode`). -/
theorem encodeOfDecodeIsTheWord : Obligations.EncodeOfDecodeIsTheWord := encode_decode

/-- Settles O4: a word of a row decodes to the instruction of the row with the word's fields, but for the halt word. -/
theorem decodeFollowsTheOpcodeTable : Obligations.DecodeFollowsTheOpcodeTable := by
  intro w
  refine ⟨fun r hr h => ?inRow, fun hnone => ?inNone⟩
  case inRow =>
    obtain ⟨i, rfl, hi⟩ := exists_instr_of_mem_namedRows hr
    by_cases hjal : i.withFieldsOf w = .jal 0#5 0#21
    · refine .inr ⟨?_, eq_haltWord_of_holds h hjal⟩
      rw [← Instr.row_withFieldsOf w, hjal]
      rfl
    · exact .inl (by rw [decode_of_holds h hi hjal, Instr.row_withFieldsOf])
  case inNone =>
    refine decode_of_not_inNamedRow (Bool.eq_false_iff.mpr fun h => ?_)
    obtain ⟨r, hr, hw⟩ := (inNamedRow_iff w).mp h
    exact absurd hw (by simp [hnone r hr])

/-- Settles O3 (`wf_decode`). -/
theorem decodeAnswersWellFormedInstructions : Obligations.DecodeAnswersWellFormedInstructions := wf_decode

/-- Settles O5: the decoder run on each of the words. -/
theorem sampleWordsDecode : Obligations.SampleWordsDecode := by
  unfold Obligations.SampleWordsDecode
  decide

end Sys2Proof.Proofs


/-! ## Memory, loads and the router (20_memory.md, 43_load_store.md) -/

namespace Sys2Proof.Machine

/-! ### Regions and aligned addresses -/

/-- `Align` leaves an aligned address alone. -/
theorem align_eq_self {w : Width} {a : Word} (h : a.toNat % w.bytes = 0) : align w a = a := by
  apply BitVec.eq_of_toNat_eq
  rw [toNat_align, Nat.div_mul_cancel (Nat.dvd_of_mod_eq_zero h)]

theorem toNat_align_mod (w : Width) (a : Word) : (align w a).toNat % w.bytes = 0 := by
  rw [toNat_align, Nat.mul_mod_left]

@[simp] theorem align_align (w : Width) (a : Word) : align w (align w a) = align w a :=
  align_eq_self (toNat_align_mod w a)

/-- At a word-aligned address both fetch policies read that word (R64). -/
theorem State.fetchAddr_of_aligned (s : State) {p : Word} (h : p.toNat % 4 = 0) : s.fetchAddr p = p := by
  unfold State.fetchAddr
  split
  · exact align_eq_self h
  · rfl

theorem State.fetch_of_aligned (s : State) {p : Word} (h : p.toNat % 4 = 0) : s.fetch p = s.busRead p := by
  rw [State.fetch, s.fetchAddr_of_aligned h]

/-! ### The bytes of a bus read -/

/-- Byte `k` of a bus read: the byte of memory in storage, 0 elsewhere. -/
theorem State.byteOfWord_busRead (s : State) (a : Word) {k : Nat} (hk : k < 4) :
    byteOfWord (s.busRead a) k = if (s.region a).isStorage then s.mem.read (a.toNat + k) else 0#8 := by
  cases hs : (s.region a).isStorage
  · rw [State.busRead_of_not_storage hs, if_neg Bool.false_ne_true, byteOfWord, BitVec.extractLsb'_zero]
  · rw [State.busRead_of_storage hs, if_pos rfl, Memory.byteOfWord_readWord _ _ _ hk]

/-- The bus read `k` bytes up an aligned word sees the word's own bytes, where it starts inside the store. -/
theorem State.byteOfWord_busRead_add {s : State} {a : Word} (ha : a.toNat % 4 = 0)
    (hin : a.toNat + 6 < s.config.memSize) {k j : Nat} (hkj : k + j < 4) :
    byteOfWord (s.busRead (a + BitVec.ofNat 32 k)) j = byteOfWord (s.busRead a) (k + j) := by
  have hadd : (a + BitVec.ofNat 32 k).toNat = a.toNat + k := by
    have := a.isLt
    rw [BitVec.toNat_add, BitVec.toNat_ofNat]
    omega
  have hregion : (s.region (a + BitVec.ofNat 32 k)).isStorage = (s.region a).isStorage := by
    rw [Bool.eq_iff_iff, State.region, State.region, regionOf_isStorage, regionOf_isStorage, hadd]
    omega
  rw [State.byteOfWord_busRead _ _ (by omega), State.byteOfWord_busRead _ _ hkj, hregion, hadd, Nat.add_assoc]

theorem extractLsb'_low_half (v : Word) : v.extractLsb' 0 16 = byteOfWord v 1 ++ byteOfWord v 0 :=
  (BitVec.extractLsb'_append_extractLsb'_eq_extractLsb' (start₁ := 0) (len₁ := 8) (len₂ := 8) rfl).symm

theorem extractLsb'_high_half (v : Word) : v.extractLsb' 16 16 = byteOfWord v 3 ++ byteOfWord v 2 :=
  (BitVec.extractLsb'_append_extractLsb'_eq_extractLsb' (start₁ := 16) (len₁ := 8) (len₂ := 8) rfl).symm

end Sys2Proof.Machine

namespace Sys2Proof.Claims

open Sys2Proof Sys2Proof.Machine

/-! ### Loaded values -/

/-- The low bytes of a little-endian value are the value of the bytes at its start. -/
theorem leValue_mod (m : Memory) (a n k : Nat) : leValue m a (n + k) % 256 ^ n = leValue m a n := by
  induction n generalizing a with
  | zero => exact Nat.mod_one _
  | succ n ih =>
    have hb := (m.read a).isLt
    rw [Nat.succ_add, leValue, leValue, pow_succ', Nat.mod_mul, ← ih (a + 1)]
    have hdiv : ((m.read a).toNat + 256 * leValue m (a + 1) (n + k)) / 256 = leValue m (a + 1) (n + k) := by omega
    rw [hdiv]
    omega

/-- The low `n` bytes of a bus read are what `n` bytes there load as. -/
theorem toNat_busRead_mod (s : State) (a : Word) {n : Nat} (hn : n ≤ 4) :
    (s.busRead a).toNat % 256 ^ n = loaded s a n := by
  cases hs : (s.region a).isStorage
  · rw [State.busRead_of_not_storage hs, loaded, hs, BitVec.toNat_zero, Nat.zero_mod, if_neg Bool.false_ne_true]
  · rw [State.busRead_of_storage hs, loaded, hs, if_pos rfl, Memory.toNat_readWord]
    obtain ⟨k, hk⟩ := Nat.exists_eq_add_of_le hn
    rw [hk, leValue_mod]

section
variable (s : State) (addr : Word)

theorem toNat_memRead8 : (s.memRead8 addr).toNat = loaded s (align .byte addr) 1 := by
  rw [← toNat_busRead_mod s _ (by decide), State.memRead8, State.memReadBus, BitVec.extractLsb'_toNat,
    Nat.shiftRight_zero]
  rfl

theorem toNat_memRead16 : (s.memRead16 addr).toNat = loaded s (align .half addr) 2 := by
  rw [← toNat_busRead_mod s _ (by decide), State.memRead16, State.memReadBus, BitVec.extractLsb'_toNat,
    Nat.shiftRight_zero]
  rfl

theorem toNat_memRead32 : (s.memRead32 addr).toNat = loaded s (align .word addr) 4 := by
  rw [← toNat_busRead_mod s _ (by decide)]
  exact (Nat.mod_eq_of_lt (BitVec.isLt _)).symm

end

end Sys2Proof.Claims

namespace Sys2Proof.Proofs

open Sys2Proof Sys2Proof.Machine Sys2Proof.Claims

/-- Settles O15: the word is of the I-type format, each effect is a `writeResult`, and the value is what the bytes at
the aligned address load as, sign-extended or zero-extended. -/
theorem loadResults : Obligations.LoadResults := by
  intro s rd rs1 imm
  have hdecode := fun f3 => decode_encodeI_opLoad imm rs1 f3 rd
  refine ⟨hdecode 0b000#3, hdecode 0b001#3, hdecode 0b010#3, hdecode 0b100#3, hdecode 0b101#3,
    ?lb, ?lh, ?lw, ?lbu, ?lhu⟩
  case lb =>
    refine computes_of_writeResult rfl ?_
    rw [BitVec.toInt_signExtend_of_le (by decide), BitVec.toInt_eq_toNat_bmod, toNat_memRead8]
  case lh =>
    refine computes_of_writeResult rfl ?_
    rw [BitVec.toInt_signExtend_of_le (by decide), BitVec.toInt_eq_toNat_bmod, toNat_memRead16]
  case lw => exact computes_of_writeResult rfl (toNat_memRead32 s _)
  case lbu =>
    refine computes_of_writeResult rfl ?_
    rw [BitVec.toNat_setWidth_of_le (by decide), toNat_memRead8]
  case lhu =>
    refine computes_of_writeResult rfl ?_
    rw [BitVec.toNat_setWidth_of_le (by decide), toNat_memRead16]

/-- Settles O17: the tests of the router, in their order, are the rows of the table. -/
theorem regionsPartitionTheAddressSpace : Obligations.RegionsPartitionTheAddressSpace := by
  intro s a hwf
  unfold State.region regionOf
  refine ⟨?ram, ?vram, ?exp, ?io, ?upper, ?oor⟩
  all_goals split_ifs <;> simp <;> omega

/-- Settles O19: the window is the region IO of the table, where reads and writes go to the peripheral. -/
theorem serialPeripheralEmitsAtItsAddressOnly : Obligations.SerialPeripheralEmitsAtItsAddressOnly := by
  intro s a v hwf hlow hhigh hin
  obtain ⟨-, -, -, hio, -, -⟩ := regionsPartitionTheAddressSpace s a hwf
  have hregion : s.region a = .io := hio.mpr ⟨hlow, hhigh, hin⟩
  refine ⟨State.busRead_of_not_storage (by rw [hregion]; rfl), ?_⟩
  rw [State.busWrite_of_io hregion]
  rfl

/-- Settles O22: a half is two bytes, and the bytes of a sub-word read are those of the word. -/
theorem accessWidthsSeeTheSameBytes : Obligations.AccessWidthsSeeTheSameBytes := by
  intro s a ha hin
  have hword : s.memRead32 a = s.busRead a := congrArg s.busRead (align_eq_self ha)
  have hbyte (k : Nat) (hk : k < 4) : s.memRead8 (a + BitVec.ofNat 32 k) = byteOfWord (s.busRead a) k := by
    rw [State.memRead8, State.memReadBus, align_byte]
    exact State.byteOfWord_busRead_add ha hin (j := 0) hk
  have hhalf (k : Nat) (hk : k + 1 < 4) (heven : (a + BitVec.ofNat 32 k).toNat % 2 = 0) :
      s.memRead16 (a + BitVec.ofNat 32 k) = byteOfWord (s.busRead a) (k + 1) ++ byteOfWord (s.busRead a) k := by
    rw [State.memRead16, State.memReadBus, align_eq_self heven, extractLsb'_low_half,
      State.byteOfWord_busRead_add ha hin hk, State.byteOfWord_busRead_add ha hin (by omega)]
    rfl
  have hzero : a + BitVec.ofNat 32 0 = a := BitVec.add_zero a
  rw [hword, extractLsb'_low_half, extractLsb'_high_half]
  refine ⟨?_, hhalf 2 (by decide) (by bv_omega), ?_, hbyte 1 (by decide), hbyte 2 (by decide), hbyte 3 (by decide)⟩
  · exact (congrArg s.memRead16 hzero).symm.trans (hhalf 0 (by decide) (by bv_omega))
  · exact (congrArg s.memRead8 hzero).symm.trans (hbyte 0 (by decide))

/-- Settles O23: an aligned address is fetched as it is, and the bus reads back the word written there. -/
theorem nextFetchSeesAStoredWord : Obligations.NextFetchSeesAStoredWord := by
  intro s t rs1 rs2 imm hwf hs h
  obtain rfl : (s.memWrite .word (s.storeAddr rs1 imm) (s.readReg rs2)).advance = t := Host.Outcome.next.inj h
  rw [State.fetch_of_aligned _ (toNat_align_mod .word _)]
  calc (s.memWrite .word (s.storeAddr rs1 imm) (s.readReg rs2)).advance.busRead (align .word (s.storeAddr rs1 imm))
      = (s.busWrite (align .word (s.storeAddr rs1 imm)) (s.readReg rs2)).busRead (align .word (s.storeAddr rs1 imm)) :=
        State.busRead_congr rfl fun _ _ _ => rfl
    _ = s.readReg rs2 := by rw [State.busRead_busWrite hwf, if_pos hs]

/-- Settles O13, by what a word plus a sign-extended immediate is (`add_signExtend_word`). -/
theorem effectiveAddressIsBasePlusDisplacement : Obligations.EffectiveAddressIsBasePlusDisplacement :=
  fun _ _ imm => ⟨add_signExtend_word _ imm, add_signExtend_word _ imm⟩

/-- Settles O21: by the policy, and by whether the region is storage. -/
theorem fetchFollowsFetchAlign : Obligations.FetchFollowsFetchAlign := by
  intro s p
  refine ⟨fun hpolicy => ?_, fun hpolicy => ?_, s.fetch_of_aligned, fun hs => ?_⟩
  · rw [State.fetch, State.fetchAddr, hpolicy]
    rfl
  · rw [State.fetch, State.fetchAddr, hpolicy]
  · have hzero : s.fetch p = 0#32 := State.busRead_of_not_storage hs
    exact ⟨hzero, by rw [hzero]; decide⟩

end Sys2Proof.Proofs


/-! ## JAL, the halt word, SLTIU, and the sentinels (42, 44 and 46) -/

namespace Sys2Proof.Machine

/-- JAL's target is the exact sum modulo 2^32 (R160). -/
theorem State.jalTarget_eq (s : State) (imm : BitVec 21) :
    s.jalTarget imm = BitVec.ofInt 32 (s.pc.toNat + imm.toInt) := add_signExtend_word s.pc imm

/-- The halt word's target is its own address (R112). -/
@[simp] theorem State.jalTarget_zero (s : State) : s.jalTarget 0#21 = s.pc := BitVec.add_zero s.pc

theorem exec_jal (rd : RegIdx) (imm : BitVec 21) (s : State) :
    exec (.jal rd imm) s = .next (s.linkAndJump rd (s.jalTarget imm)) := rfl

theorem exec_halt (s : State) : exec .halt s = .next (s.linkAndJump 0#5 (s.jalTarget 0#21)) := rfl

theorem exec_iret (s : State) : exec .iret s = .next s.returnFromInterrupt := rfl

/-- `immI` as an unsigned number is the field's value modulo 2^32. -/
theorem toNat_immI (imm : BitVec 12) : ((immI imm).toNat : Int) = imm.toInt % 2 ^ 32 := by
  rw [immI, BitVec.signExtend, BitVec.toNat_ofInt, Int.toNat_of_nonneg (Int.emod_nonneg _ (by decide))]
  rfl

/-- A fetch from EXP, IO or OOR gives 0, so another word was fetched from storage (R64). -/
theorem State.isStorage_of_fetch_ne_zero {s : State} {p : Word} (h : s.fetch p ≠ 0#32) :
    (s.region (s.fetchAddr p)).isStorage = true := by
  by_contra hs
  exact h (State.busRead_of_not_storage (Bool.eq_false_iff.mpr hs))

/-- Where the flag is clear the interrupt check does nothing (R130). -/
theorem State.interruptCheck_of_not_pending {s : State} (h : s.pending = false) : s.interruptCheck = s := by
  rw [State.interruptCheck, h, if_neg Bool.false_ne_true]

/-- Where it is set the check diverts (R256). -/
theorem State.interruptCheck_of_pending {s : State} (h : s.pending = true) : s.interruptCheck = s.enterInterrupt := by
  rw [State.interruptCheck, if_pos h]

/-- The step that executes IRET restores the pc after its interrupt check, and ends there (R134, R262). -/
theorem step_of_iret {s : State} (h : s.currentInstr = .iret) :
    step s = .next s.interruptCheck.returnFromInterrupt := by
  have hexec : exec s.currentInstr s.interruptCheck = .next s.interruptCheck.returnFromInterrupt := by
    rw [h, exec_iret]
  rw [step_of_exec hexec, h, State.finishStep_iret]

end Sys2Proof.Machine

namespace Sys2Proof.Claims

open Sys2Proof Sys2Proof.Machine

/-- An instruction whose effect is `skipUnimplemented` of a word reports that word and skips it. -/
theorem skips_of_skipUnimplemented {i : Instr} {s : State} {word : Word}
    (h : exec i s = .next (s.skipUnimplemented word)) : Skips i s word :=
  ⟨_, h, rfl, rfl, rfl, fun _ => rfl, fun _ => rfl, ⟨rfl, rfl, rfl, rfl⟩⟩

end Sys2Proof.Claims

namespace Sys2Proof.Proofs

open Sys2Proof Sys2Proof.Machine Sys2Proof.Claims

/-- Settles O9: the word is of the J-type format, the effect is a `linkAndJump`, and its target is the exact sum. -/
theorem jalLinksAndJumps : Obligations.JalLinksAndJumps := by
  intro s rd imm
  refine ⟨decode_encodeJ_opJal, by decide, rfl, _, exec_jal rd imm s, ?_, ?_⟩
  · exact wroteReg_setPc s rd s.nextPc (s.jalTarget imm)
  · rw [State.linkAndJump_pc, State.jalTarget_eq]

/-- Settles O11: the halt word jumps to its own address, and its link goes to `x0`, which drops it. -/
theorem haltWordJumpsToItself : Obligations.HaltWordJumpsToItself := by
  intro s
  refine ⟨by decide, _, exec_halt s, ?_, fun r => ?_, fun a => rfl, ⟨rfl, rfl, rfl, rfl⟩, ⟨rfl, rfl⟩⟩
  · rw [State.linkAndJump_pc, State.jalTarget_zero]
  · rfl

/-- Settles O25: the word is of the I-type format, the effect is a `writeResult`, and the comparison is of `x[rs1]`
with `immI` as unsigned numbers. -/
theorem sltiuComparesTheExtendedImmediateUnsigned : Obligations.SltiuComparesTheExtendedImmediateUnsigned := by
  intro s rd rs1 imm
  refine ⟨decode_encodeI_opAluImm imm rs1 0b011#3 rd, computes_of_writeResult rfl (wordOfCond_eq_ite ?_)⟩
  rw [condLtU_iff, ← toNat_immI, Int.ofNat_lt]

/-- Settles O28: each of the five is skipped with its own word in the report, and none of them is IRET. -/
theorem unimplementedWordsAreReportedNoOps : Obligations.UnimplementedWordsAreReportedNoOps := by
  intro s rd rs1 imm word
  exact ⟨skips_of_skipUnimplemented rfl, skips_of_skipUnimplemented rfl, skips_of_skipUnimplemented rfl,
    skips_of_skipUnimplemented rfl, skips_of_skipUnimplemented rfl, rfl, rfl, rfl, rfl, rfl⟩

/-- Settles O27: with no interrupt pending the step is `exec` of IRET, and its word is not the 0 that a fetch outside
storage gives. -/
theorem iretRestoresThePcOnly : Obligations.IretRestoresThePcOnly := by
  intro s
  refine ⟨by decide, exec_iret s, fun hpending hfetch => ⟨?step, ?storage⟩⟩
  case step =>
    have hcheck := State.interruptCheck_of_not_pending hpending
    have hinstr : s.currentInstr = .iret := by
      rw [State.currentInstr, hcheck, hfetch]
      decide
    rw [step_of_iret hinstr, hcheck]
    rfl
  case storage =>
    have hne : s.fetch s.pc ≠ 0#32 := by rw [hfetch]; decide
    exact (Region.isStorage_iff _).mp (State.isStorage_of_fetch_ne_zero hne)

/-- Settles O46: the diverted step executes IRET, which restores the pc that its interrupt check has just saved. -/
theorem iretAtTheHandlerUndoesTheDiversion : Obligations.IretAtTheHandlerUndoesTheDiversion := by
  intro s hpending hfetch
  have hcheck := State.interruptCheck_of_pending hpending
  have hword : s.enterInterrupt.fetch s.config.handlerAddress = 0xFFFFFFFF#32 :=
    (State.busRead_congr rfl fun _ _ _ => rfl).trans hfetch
  have hinstr : s.currentInstr = .iret := by
    rw [State.currentInstr, hcheck, State.enterInterrupt_pc, hword]
    decide
  rw [step_of_iret hinstr, hcheck]
  rfl

end Sys2Proof.Proofs


/-! ## What a step keeps and what it changes (10_state.md, 40_step.md, 60_exceptions.md)

First what an instruction's shape says of each field, then the fields after what ends the step, then the whole step. -/

namespace Sys2Proof.Machine

/-! ### Fields of a shape -/

/-- `MemWrite` goes to the aligned address (R63). -/
theorem State.memWrite_align (s : State) (w : Width) (addr v : Word) :
    s.memWrite w (align w addr) v = s.memWrite w addr v := by
  rw [State.memWrite_eq_busWrite, State.memWrite_eq_busWrite, align_align]

/-- A register write shows in its own register only, and not where that is `x0`. -/
theorem State.eq_dest_of_readReg_writeReg_ne {s : State} {rd r : RegIdx} {v : Word}
    (h : (s.writeReg rd v).readReg r ≠ s.readReg r) : r = rd ∧ r ≠ 0#5 := by
  rw [State.readReg_writeReg] at h
  obtain ⟨rfl, hne⟩ := of_not_not fun hn => h (if_neg hn)
  exact ⟨rfl, hne⟩

/-- An even word plus a sign-extended even offset is even. -/
theorem even_add_signExtend {n : Nat} {a : Word} {imm : BitVec (n + 1)} (ha : a.toNat % 2 = 0)
    (himm : imm.getLsbD 0 = false) (hn : n < 32 := by decide) : (a + imm.signExtend 32).toNat % 2 = 0 := by
  have hbit : (imm.signExtend 32).getLsbD 0 = false :=
    (getLsbD_signExtend_word_low imm (Nat.zero_le n) hn).trans himm
  have hext : (imm.signExtend 32).toNat % 2 = 0 := by simpa [BitVec.getLsbD] using hbit
  rw [BitVec.toNat_add]
  omega

section
variable {s t : State} {i : Instr} (h : Shape s i t)
include h

/-- Only the destination register reads differently, and it is not `x0` (R23). -/
theorem Shape.dest_of_readReg_ne {r : RegIdx} (hne : t.readReg r ≠ s.readReg r) :
    destOf i = some r ∧ r ≠ 0#5 := by
  cases h
  case result rd v hd _ _ _ =>
    obtain ⟨rfl, hr⟩ := State.eq_dest_of_readReg_writeReg_ne hne
    exact ⟨hd, hr⟩
  case jal | jalr =>
    obtain ⟨rfl, hr⟩ := State.eq_dest_of_readReg_writeReg_ne hne
    exact ⟨rfl, hr⟩
  case halt | iret | skip => exact absurd rfl hne
  case branch => exact absurd (State.readReg_congr (State.branch_regs _ _ _) r) hne
  case store => exact absurd (State.readReg_memWrite _ _ _ _ r) hne

/-- An instruction that makes no store keeps memory and the serial stream. -/
theorem Shape.mem_serialOut_eq (hs : storeOf s i = none) : t.mem = s.mem ∧ t.serialOut = s.serialOut := by
  cases h
  case store hstore _ _ => rw [hstore] at hs; contradiction
  all_goals exact ⟨by simp, by simp⟩

/-- An instruction that makes a store is that `MemWrite`, at an aligned address. -/
theorem Shape.eq_memWrite {w : Width} {a v : Word} (hs : storeOf s i = some (w, a, v)) :
    align w a = a ∧ t = (s.memWrite w a v).advance := by
  cases h
  case store w' addr v' _ hstore _ _ =>
    obtain ⟨rfl, rfl, rfl⟩ : w' = w ∧ align w' addr = a ∧ v' = v := by simpa [hstore] using hs
    exact ⟨align_align w' addr, by rw [State.memWrite_align]⟩
  case result hnone _ _ | branch hnone _ _ | skip hnone _ _ => rw [hnone] at hs; contradiction
  case jal | jalr | halt | iret => contradiction

/-- An unimplemented word is reported, with its address, and nothing else is (R252, R253). -/
theorem Shape.diagOut_eq : t.diagOut =
    s.diagOut ++ if isUnimplemented i = true then [⟨.unimplementedOperation, s.pc, encode i⟩] else [] := by
  cases h
  case skip hu _ => rw [hu, if_pos rfl, State.skipUnimplemented_diagOut]
  case result hu _ | branch hu _ | store hu _ => simp [hu]
  case jal | jalr | halt | iret => simp [isUnimplemented]

/-- A well-formed instruction goes from an even pc to an even one, where IRET finds one saved (R26). -/
theorem Shape.pc_even (hwf : i.wf = true) (hpc : s.pc.toNat % 2 = 0) (hsaved : s.savedReturnAddress.toNat % 2 = 0) :
    t.pc.toNat % 2 = 0 := by
  have hnext : (s.pc + 4#32).toNat % 2 = 0 := by bv_omega
  cases h
  case result | store | skip => simpa using hnext
  case jal rd imm =>
    have heven : imm.getLsbD 0 = false := by
      rw [Instr.wf, Bool.and_eq_true, Bool.not_eq_true'] at hwf
      exact hwf.1
    rw [State.linkAndJump_pc]
    exact even_add_signExtend hpc heven
  case jalr rd rs1 imm =>
    rw [State.linkAndJump_pc]
    exact toNat_align_mod .half (s.readReg rs1 + immI imm)
  case halt => rwa [State.linkAndJump_pc, State.jalTarget_zero]
  case branch cond imm heven _ _ _ _ =>
    rw [State.branch_pc]
    split
    · exact even_add_signExtend hpc (heven hwf)
    · exact hnext
  case iret => exact hsaved

end

/-- The bytes of an aligned access in storage lie outside EXP and IO: it ends before a region's border. -/
theorem State.outside_of_storage {s : State} {w : Width} {a : Word} (ha : align w a = a)
    (hs : (s.region a).isStorage = true) {b : Nat} (hge : a.toNat ≤ b) (hlt : b < a.toNat + w.bytes) :
    ¬ (0x90000 ≤ b ∧ b ≤ 0x9FFFF) := by
  have haligned := toNat_align_mod w a
  obtain ⟨-, houtside⟩ := (regionOf_isStorage _ _).mp hs
  rw [ha] at haligned
  cases w <;> simp only [Width.bytes] at haligned hlt <;> omega

/-! ### Fields after the end of a step -/

section
variable (s : State) (i : Instr)

theorem State.finishStep_icount : (s.finishStep i).icount =
    if i = .iret then s.icount else if s.icount + 1 = s.config.irqThreshold then 0 else s.icount + 1 := by
  by_cases hi : i = .iret
  · rw [if_pos hi, hi, State.finishStep_iret]
  · rw [if_neg hi, State.finishStep_counted hi, State.scheduleInterrupt_icount]
    rfl

theorem State.finishStep_pending : (s.finishStep i).pending =
    if i = .iret then s.pending else if s.icount + 1 = s.config.irqThreshold then true else s.pending := by
  by_cases hi : i = .iret
  · rw [if_pos hi, hi, State.finishStep_iret]
  · rw [if_neg hi, State.finishStep_counted hi, State.scheduleInterrupt_pending]
    rfl

/-- What ends a step, as R130 writes it. -/
theorem State.finishStep_eq : s.finishStep i =
    if i = .iret then s
    else if s.icount + 1 = s.config.irqThreshold then
      { s with regs := s.regs.set 0 0#32, pending := true, icount := 0 }
    else { s with regs := s.regs.set 0 0#32, icount := s.icount + 1 } := by
  by_cases hi : i = .iret
  · rw [if_pos hi, hi, State.finishStep_iret]
  · rw [if_neg hi, State.finishStep_counted hi]
    rfl

/-- Slot 0 holds 0 at the end of a step if it did before: a counted step sets it, IRET's step keeps it. -/
theorem State.finishStep_x0 (h : s.regs[0] = 0#32) : (s.finishStep i).regs[0] = 0#32 := by
  by_cases hi : i = .iret
  · rwa [hi, State.finishStep_iret]
  · simp [State.finishStep_counted hi]

end

/-! ### The whole step -/

section
variable {s t : State} (h : step s = .next t)
include h

theorem step_config : t.config = s.config := by
  obtain ⟨u, hu, rfl⟩ := step_cases h
  rw [State.finishStep_config, hu.config_eq, State.interruptCheck_config]

theorem step_icount : t.icount =
    if s.currentInstr = .iret then s.icount
    else if s.icount + 1 = s.config.irqThreshold then 0 else s.icount + 1 := by
  obtain ⟨u, hu, rfl⟩ := step_cases h
  rw [State.finishStep_icount, hu.icount_eq, hu.config_eq, State.interruptCheck_icount, State.interruptCheck_config]

theorem step_pending : t.pending = true ↔ s.currentInstr ≠ .iret ∧ s.icount + 1 = s.config.irqThreshold := by
  obtain ⟨u, hu, rfl⟩ := step_cases h
  rw [State.finishStep_pending, hu.icount_eq, hu.config_eq, hu.pending_eq, State.interruptCheck_icount,
    State.interruptCheck_config, State.interruptCheck_pending]
  split_ifs with hi hreached <;> simp [*]

/-- The invariant is kept. -/
theorem step_inv (hs : s.Inv) : t.Inv := by
  obtain ⟨hconfig, hmem, hinside, hx0, hicount, -⟩ := hs
  have hcount := step_icount h
  have hpend := step_pending h
  have hconf := step_config h
  obtain ⟨u, hu, rfl⟩ := step_cases h
  refine ⟨?configWf, ?memWf, ?memInside, ?x0Zero, ?icountBelow, fun hp => ?pendingFresh⟩
  case configWf => rwa [hconf]
  case memWf =>
    rw [State.finishStep_mem]
    exact hu.mem_wf (by rwa [State.interruptCheck_mem])
  case memInside =>
    rw [State.finishStep_mem, hconf, ← State.interruptCheck_config]
    exact hu.mem_inside (by rwa [State.interruptCheck_mem, State.interruptCheck_config])
  case x0Zero => exact State.finishStep_x0 _ _ (by simpa [hu.x0_eq] using hx0)
  case icountBelow =>
    obtain ⟨-, -, hthreshold⟩ := hconfig
    rw [hcount, hconf]
    split_ifs <;> omega
  case pendingFresh =>
    obtain ⟨hi, hreached⟩ := hpend.mp hp
    rw [hcount, if_neg hi, if_pos hreached]

/-- Memory and the serial stream after a step that makes no store. -/
theorem step_mem_of_no_store (hs : storeOf s.interruptCheck s.currentInstr = none) :
    t.mem = s.mem ∧ t.serialOut = s.serialOut := by
  obtain ⟨u, hu, rfl⟩ := step_cases h
  simpa using hu.mem_serialOut_eq hs

/-- Memory and the serial stream after a step that makes a store: those of its `MemWrite`, at an aligned address. -/
theorem step_mem_of_store {w : Width} {a v : Word} (hs : storeOf s.interruptCheck s.currentInstr = some (w, a, v)) :
    align w a = a ∧ t.mem = (s.interruptCheck.memWrite w a v).mem ∧
      t.serialOut = (s.interruptCheck.memWrite w a v).serialOut := by
  obtain ⟨u, hu, rfl⟩ := step_cases h
  obtain ⟨ha, rfl⟩ := hu.eq_memWrite hs
  exact ⟨ha, by simp, by simp⟩

end

end Sys2Proof.Machine

namespace Sys2Proof.Proofs

open Sys2Proof Sys2Proof.Machine Sys2Proof.Claims

/-- Settles O29: `afterCheck` is the interrupt check, and what ends the step is written out (`finishStep_eq`). -/
theorem stepRunsTheDecodedInstruction : Obligations.StepRunsTheDecodedInstruction := by
  rintro s t i rfl hexec
  exact (step_of_exec hexec).trans (congrArg _ (State.finishStep_eq t _))

/-- Settles O33 (`step_inv`): the shape of the instruction keeps memory, the end of the step the registers. -/
theorem everyStepKeepsTheInvariant : Obligations.EveryStepKeepsTheInvariant := fun _ _ hs h => step_inv h hs

/-- Settles O34: no instruction leaves an even pc odd (`Shape.pc_even`), for the decoder's offsets are even. -/
theorem pcStaysEven : Obligations.PcStaysEven := by
  rintro s t ⟨hpc, hsaved, hhandler⟩ h
  have hpc' : s.interruptCheck.pc.toNat % 2 = 0 := by
    rw [State.interruptCheck_pc]
    split <;> assumption
  have hsaved' : s.interruptCheck.savedReturnAddress.toNat % 2 = 0 := by
    rw [State.interruptCheck_savedReturnAddress]
    split <;> assumption
  refine ⟨?_, ?_, by rwa [step_config h]⟩
  · obtain ⟨u, hu, rfl⟩ := step_cases h
    rw [State.finishStep_pc]
    exact hu.pc_even (wf_decode _) hpc' hsaved'
  · rw [step_savedReturnAddress h]
    split <;> assumption

/-- Settles O35 (`step_config`). -/
theorem parametersNeverChange : Obligations.ParametersNeverChange := fun _ _ => step_config

/-- Settles O36: neither the interrupt check nor the end of the step changes what a register reads as. -/
theorem onlyTheDestinationRegisterChanges : Obligations.OnlyTheDestinationRegisterChanges := by
  intro s t r h hne
  obtain ⟨u, hu, rfl⟩ := step_cases h
  rw [State.readReg_finishStep, ← s.readReg_interruptCheck] at hne
  exact hu.dest_of_readReg_ne hne

/-- Settles O37: by whether the instruction makes a store, whose bytes and emission are those of `MemWrite`. -/
theorem onlyStoresReachMemoryAndSerial : Obligations.OnlyStoresReachMemoryAndSerial := by
  intro s t hwf h
  split
  next hs =>
    obtain ⟨hmem, hserial⟩ := step_mem_of_no_store h hs
    exact ⟨fun b => by rw [hmem], hserial⟩
  next w a v hs =>
    obtain ⟨ha, hmem, hserial⟩ := step_mem_of_store h hs
    have hwf' : s.interruptCheck.mem.wf := by rwa [State.interruptCheck_mem]
    have hregion : s.interruptCheck.region a = s.region a := State.region_congr s.interruptCheck_config a
    refine ⟨fun b => ?_, ?_⟩
    · rw [hmem, State.read_memWrite hwf', ha, hregion, State.interruptCheck_mem]
    · rw [hserial, State.memWrite_serialOut, ha, hregion, State.interruptCheck_serialOut]
      rfl

/-- Settles O38: the word an unimplemented instruction reports is the one fetched, since decoding drops no bit. -/
theorem diagnosticsRecordUnimplementedWords : Obligations.DiagnosticsRecordUnimplementedWords := by
  intro s t h
  obtain ⟨u, hu, rfl⟩ := step_cases h
  rw [State.finishStep_diagOut, hu.diagOut_eq, State.interruptCheck_diagOut, State.currentInstr, encode_decode]
  rfl

/-- Settles O39, register by register. -/
theorem interruptStateIsWrittenByCheckAndScheduling : Obligations.InterruptStateIsWrittenByCheckAndScheduling :=
  fun _ _ h => ⟨step_savedReturnAddress h, step_pending h, step_icount h⟩

/-- Settles O42: the bytes a step stores lie outside EXP and IO (`outside_of_storage`). -/
theorem expansionAndIoBytesNeverChange : Obligations.ExpansionAndIoBytesNeverChange := by
  intro s t b hwf h hlow hhigh
  have hstores := onlyStoresReachMemoryAndSerial s t hwf h
  split at hstores
  next => exact hstores.1 b
  next w a v hs =>
    obtain ⟨ha, -, -⟩ := step_mem_of_store h hs
    rw [hstores.1 b, if_neg]
    rintro ⟨hstorage, hge, hlt⟩
    exact State.outside_of_storage ha hstorage hge hlt ⟨hlow, hhigh⟩

/-- Settles O31: the fields of the initial state. -/
theorem resetLeavesTheStatedValues : Obligations.ResetLeavesTheStatedValues := by
  refine ⟨fun r => ?_, ?_, rfl, rfl, rfl, rfl, fun a => rfl, rfl, rfl, rfl, rfl, rfl⟩
  · simp [State.readReg, State.reset, State.init]
  · simp [State.reset, State.init]

/-- Settles O32: the default machine is one of those with well-formed parameters and a canonical image. -/
theorem resetMeetsTheInvariant : Obligations.ResetMeetsTheInvariant := by
  have hinit : ∀ (c : Config) (image : Memory), c.wf → image.wf → (∀ b ∈ image, b.1 < c.memSize) →
      (State.init c image).Inv := by
    intro c image hconfig hmem hinside
    refine ⟨hconfig, hmem, hinside, ?_, hconfig.2.2, fun _ => rfl⟩
    simp [State.init]
  exact ⟨hinit _ _ (by decide) (by decide) (by decide), hinit⟩

end Sys2Proof.Proofs


/-! ## What no step reads (10_state.md R34 to R36, 20_memory.md R74) -/

namespace Sys2Proof.Machine

/-! ### The output streams -/

/-- `s` with bytes and events put before what its streams hold. -/
def State.withEarlierOutputs (bytes : List Byte) (events : List DiagEvent) (s : State) : State :=
  { s with serialOut := bytes ++ s.serialOut, diagOut := events ++ s.diagOut }

/-- No instruction sees what the streams hold: all it does is append to them. -/
theorem unseen_withEarlierOutputs (bytes : List Byte) (events : List DiagEvent) :
    Unseen (State.withEarlierOutputs bytes events) where
  config _ := rfl
  regs _ := rfl
  pc _ := rfl
  mem _ := rfl
  icount _ := rfl
  setRegs _ _ := rfl
  setPc _ _ := rfl
  setMem _ _ := rfl
  setIcount _ _ := rfl
  setPending _ _ := rfl
  emit s b := by simp only [State.emit, State.withEarlierOutputs, List.append_assoc]
  report s ipc inst := by simp only [State.report, State.withEarlierOutputs, List.append_assoc]

theorem State.interruptCheck_withEarlierOutputs (bytes : List Byte) (events : List DiagEvent) (s : State) :
    (s.withEarlierOutputs bytes events).interruptCheck = s.interruptCheck.withEarlierOutputs bytes events := by
  cases hp : s.pending <;> simp [State.interruptCheck, State.withEarlierOutputs, State.enterInterrupt, hp]

/-! ### The bytes of EXP and IO -/

/-- `s` with another memory. -/
def State.withMem (m : Memory) (s : State) : State := { s with mem := m }

section
variable (m : Memory) (s : State)

theorem State.writeReg_withMem (r : RegIdx) (v : Word) :
    (s.withMem m).writeReg r v = (s.writeReg r v).withMem m := by
  by_cases hr : r = 0#5
  · rw [State.writeReg, State.writeReg, if_pos hr, if_pos hr]
  · rw [State.writeReg, State.writeReg, if_neg hr, if_neg hr]
    rfl

theorem State.writeResult_withMem (rd : RegIdx) (v : Word) :
    (s.withMem m).writeResult rd v = (s.writeResult rd v).withMem m := by
  rw [State.writeResult, State.writeReg_withMem]
  rfl

theorem State.linkAndJump_withMem (rd : RegIdx) (target : Word) :
    (s.withMem m).linkAndJump rd target = (s.linkAndJump rd target).withMem m := by
  rw [State.linkAndJump, State.writeReg_withMem]
  rfl

theorem State.branch_withMem (cond : Bool) (imm : BitVec 13) :
    (s.withMem m).branch cond imm = (s.branch cond imm).withMem m := by
  cases cond <;> rfl

theorem State.interruptCheck_withMem : (s.withMem m).interruptCheck = s.interruptCheck.withMem m := by
  cases hp : s.pending <;> simp [State.interruptCheck, State.withMem, State.enterInterrupt, hp]

theorem State.scheduleInterrupt_withMem : (s.withMem m).scheduleInterrupt = s.scheduleInterrupt.withMem m := by
  by_cases ht : s.icount + 1 = s.config.irqThreshold <;> simp [State.scheduleInterrupt, State.withMem, ht]

theorem State.finishStep_withMem (i : Instr) : (s.withMem m).finishStep i = (s.finishStep i).withMem m := by
  by_cases hi : i = .iret
  · rw [hi, State.finishStep_iret, State.finishStep_iret]
  · rw [State.finishStep_counted hi, State.finishStep_counted hi, ← State.scheduleInterrupt_withMem]
    rfl

theorem storeOf_withMem (i : Instr) : storeOf (s.withMem m) i = storeOf s i := by
  cases i <;> rfl

end

end Sys2Proof.Machine

namespace Sys2Proof.Claims

open Sys2Proof Sys2Proof.Machine

/-- Two memories that read alike outside EXP and IO. -/
def AgreesOutside (m n : Memory) : Prop := ∀ a, ¬ (0x90000 ≤ a ∧ a ≤ 0x9FFFF) → m.read a = n.read a

theorem agreeOutsideExpAndIo_iff (s t : State) :
    AgreeOutsideExpAndIo s t ↔ ∃ m, AgreesOutside s.mem m ∧ t = s.withMem m := by
  constructor
  · rintro ⟨hconfig, hregs, hpc, hpending, hsaved, hicount, hserial, hdiag, hmem⟩
    refine ⟨t.mem, hmem, ?_⟩
    cases s
    cases t
    simp_all [State.withMem]
  · rintro ⟨m, hmem, rfl⟩
    exact ⟨rfl, rfl, rfl, rfl, rfl, rfl, rfl, rfl, hmem⟩

theorem leValue_congr {m n : Memory} {a k : Nat} (h : ∀ b, a ≤ b → b < a + k → m.read b = n.read b) :
    leValue m a k = leValue n a k := by
  induction k generalizing a with
  | zero => rfl
  | succ k ih => rw [leValue, leValue, h a (by omega) (by omega), ih fun b hge hlt => h b (by omega) (by omega)]

section
variable {s : State} {m : Memory} (h : AgreesOutside s.mem m)
include h

theorem loaded_withMem (w : Width) (addr : Word) :
    loaded (s.withMem m) (align w addr) w.bytes = loaded s (align w addr) w.bytes := by
  have hregion : (s.withMem m).region (align w addr) = s.region (align w addr) := rfl
  rw [loaded, loaded, hregion]
  cases hs : (s.region (align w addr)).isStorage
  · rfl
  · exact (leValue_congr fun b hge hlt => h b (State.outside_of_storage (align_align w addr) hs hge hlt)).symm

theorem memRead8_withMem (addr : Word) : (s.withMem m).memRead8 addr = s.memRead8 addr := by
  apply BitVec.eq_of_toNat_eq
  rw [toNat_memRead8, toNat_memRead8]
  exact loaded_withMem h .byte addr

theorem memRead16_withMem (addr : Word) : (s.withMem m).memRead16 addr = s.memRead16 addr := by
  apply BitVec.eq_of_toNat_eq
  rw [toNat_memRead16, toNat_memRead16]
  exact loaded_withMem h .half addr

theorem memRead32_withMem (addr : Word) : (s.withMem m).memRead32 addr = s.memRead32 addr := by
  apply BitVec.eq_of_toNat_eq
  rw [toNat_memRead32, toNat_memRead32]
  exact loaded_withMem h .word addr

/-- An instruction that makes no store does the same with the other memory, and leaves it. -/
theorem exec_withMem {i : Instr} (hi : storeOf s i = none) :
    exec i (s.withMem m) = mapNext (State.withMem m) (exec i s) := by
  cases i
  case sb | sh | sw => contradiction
  case lui | auipc | addi | slti | sltiu | xori | ori | andi | slli | srli | srai | add | sub | sll | slt | sltu | xor
      | srl | sra | or | and => exact congrArg _ (State.writeResult_withMem m s _ _)
  case lb | lh | lw | lbu | lhu =>
    have haddr rs1 imm : (s.withMem m).loadAddr rs1 imm = s.loadAddr rs1 imm := rfl
    simp only [exec, mapNext, execLb, execLh, execLw, execLbu, execLhu, haddr, memRead8_withMem h, memRead16_withMem h,
      memRead32_withMem h, State.writeResult_withMem]
  case jal | jalr | halt => exact congrArg _ (State.linkAndJump_withMem m s _ _)
  case beq | bne | blt | bge | bltu | bgeu => exact congrArg _ (State.branch_withMem m s _ _)
  case iret | fence | fencei | ecall | ebreak | unimplemented => rfl

/-- The same `MemWrite` with the other memory: the same bytes are written, the same byte is emitted. -/
theorem agree_memWrite (hs : s.mem.wf) (hm : m.wf) (w : Width) (addr v : Word) :
    AgreeOutsideExpAndIo (s.memWrite w addr v) ((s.withMem m).memWrite w addr v) := by
  refine ⟨?config, ?regs, ?pc, ?pending, ?saved, ?icount, ?serialOut, ?diagOut, fun b hb => ?mem⟩
  case mem =>
    rw [State.read_memWrite hs, State.read_memWrite (s := s.withMem m) hm]
    exact congrArg (ite _ _) (h b hb)
  case serialOut =>
    exact (State.memWrite_serialOut s w addr v).trans (State.memWrite_serialOut (s.withMem m) w addr v).symm
  all_goals simp only [State.memWrite_config, State.memWrite_regs, State.memWrite_pc, State.memWrite_pending,
    State.memWrite_savedReturnAddress, State.memWrite_icount, State.memWrite_diagOut]; rfl

/-- Every instruction goes on to agreeing states. -/
theorem exec_agree (hs : s.mem.wf) (hm : m.wf) {i : Instr} {u : State} (hu : exec i s = .next u) :
    ∃ n, exec i (s.withMem m) = .next (u.withMem n) ∧ AgreesOutside u.mem n := by
  have hshape := shape_of_exec hu
  cases hstore : storeOf s i with
  | none =>
    refine ⟨m, by rw [exec_withMem h hstore, hu, mapNext], ?_⟩
    rwa [(hshape.mem_serialOut_eq hstore).1]
  | some store =>
    obtain ⟨w, a, v⟩ := store
    obtain ⟨t, ht, hshape'⟩ := exec_shape i (s.withMem m)
    obtain ⟨-, rfl⟩ := hshape.eq_memWrite hstore
    obtain ⟨-, rfl⟩ := hshape'.eq_memWrite ((storeOf_withMem m s i).trans hstore)
    obtain ⟨n, hn, heq⟩ := (agreeOutsideExpAndIo_iff _ _).mp (agree_memWrite h hs hm w a v)
    exact ⟨n, by rw [ht, heq]; rfl, hn⟩

/-- Under align_down a fetch reads an aligned word, so the instruction a step executes is the same. -/
theorem currentInstr_withMem (halign : s.config.fetchAlign = .alignDown) :
    (s.withMem m).currentInstr = s.currentInstr := by
  have hfetch {t : State} (ht : t.config.fetchAlign = .alignDown) (p : Word) : t.fetch p = t.memRead32 p := by
    rw [State.fetch, State.fetchAddr, ht]
    rfl
  have hcheck : AgreesOutside s.interruptCheck.mem m := by rwa [State.interruptCheck_mem]
  have halign' : s.interruptCheck.config.fetchAlign = .alignDown := by rwa [State.interruptCheck_config]
  rw [State.currentInstr, State.currentInstr, State.interruptCheck_withMem, hfetch halign',
    hfetch (t := s.interruptCheck.withMem m) halign', memRead32_withMem hcheck]
  rfl

end

end Sys2Proof.Claims

namespace Sys2Proof.Proofs

open Sys2Proof Sys2Proof.Machine Sys2Proof.Claims

/-- Settles O41: IRET's step and every other one goes on to the same state behind the earlier outputs. -/
theorem outputStreamsAreNeverRead : Obligations.OutputStreamsAreNeverRead := by
  intro s t bytes events h
  have hunseen := unseen_withEarlierOutputs bytes events
  have hcheck := s.interruptCheck_withEarlierOutputs bytes events
  by_cases hi : s.currentInstr = .iret
  · have hcurrent : (s.withEarlierOutputs bytes events).currentInstr = .iret := by
      rw [← hi, State.currentInstr, State.currentInstr, hcheck, hunseen.pc, hunseen.fetch]
    obtain rfl := Host.Outcome.next.inj ((step_of_iret hi).symm.trans h)
    exact (step_of_iret hcurrent).trans (by rw [hcheck]; rfl)
  · exact hunseen.step hcheck hi h

/-- Settles O43: the two states differ in their memories only; the instruction is the same, it goes on to agreeing
states, and what ends the step reads no memory. -/
theorem expansionAndIoBytesNeverMatter : Obligations.ExpansionAndIoBytesNeverMatter := by
  intro s s' t t' hwf hwf' halign hagree h h'
  obtain ⟨m, hm, rfl⟩ := (agreeOutsideExpAndIo_iff s s').mp hagree
  obtain ⟨u, hu, -⟩ := exec_shape s.currentInstr s.interruptCheck
  have hcheck : AgreesOutside s.interruptCheck.mem m := by rwa [State.interruptCheck_mem]
  obtain ⟨n, hu', hn⟩ := exec_agree hcheck (by rwa [State.interruptCheck_mem]) hwf' hu
  rw [← State.interruptCheck_withMem, ← currentInstr_withMem hm halign] at hu'
  obtain rfl := Host.Outcome.next.inj ((step_of_exec hu).symm.trans h)
  obtain rfl := Host.Outcome.next.inj ((step_of_exec hu').symm.trans h')
  refine (agreeOutsideExpAndIo_iff _ _).mpr ⟨n, by rwa [State.finishStep_mem], ?_⟩
  rw [State.finishStep_withMem, currentInstr_withMem hm halign]

end Sys2Proof.Proofs


/-! ## The interrupt, runs, and the placed word (60_exceptions.md, 70_reset_and_hazards.md) -/

namespace Sys2Proof.Machine

/-! ### Counted steps -/

/-- Entering the interrupt changes nothing a fetch reads. -/
theorem State.fetch_enterInterrupt (s : State) (p : Word) : s.enterInterrupt.fetch p = s.fetch p := rfl

theorem ReachesCounted.config_eq {n : Nat} {s t : State} (h : ReachesCounted n s t) : t.config = s.config := by
  induction h with
  | refl => rfl
  | tail _ _ hstep ih => rw [step_config hstep, ih]

/-- Below the threshold the count is the number of the steps, and none of them raises the interrupt. -/
theorem ReachesCounted.below_threshold {n : Nat} {s t : State} (h : ReachesCounted n s t) (h0 : s.icount = 0)
    (hn : n < s.config.irqThreshold) : t.icount = n ∧ (0 < n → t.pending = false) := by
  induction h with
  | refl => exact ⟨h0, fun h => absurd h (Nat.lt_irrefl 0)⟩
  | @tail n s t u hreach hcounted hstep ih =>
    obtain ⟨hicount, -⟩ := ih h0 (Nat.lt_of_succ_lt hn)
    have hi := (isCounted_iff _).mp hcounted
    have hnot : ¬ t.icount + 1 = t.config.irqThreshold := by rw [hicount, hreach.config_eq]; exact Nat.ne_of_lt hn
    refine ⟨by rw [step_icount hstep, if_neg hi, if_neg hnot, hicount], fun _ => ?_⟩
    exact Bool.eq_false_iff.mpr fun hpending => hnot ((step_pending hstep).mp hpending).2

/-- The step that reaches the threshold raises the interrupt and restarts the count (R255). -/
theorem ReachesCounted.at_threshold {n : Nat} {s t : State} (h : ReachesCounted (n + 1) s t) (h0 : s.icount = 0)
    (hn : n + 1 = s.config.irqThreshold) : t.pending = true ∧ t.icount = 0 := by
  cases h with
  | @tail _ _ u _ hreach hcounted hstep =>
    have hi := (isCounted_iff _).mp hcounted
    have hreached : u.icount + 1 = u.config.irqThreshold := by
      rw [(hreach.below_threshold h0 (by omega)).1, hreach.config_eq, hn]
    exact ⟨(step_pending hstep).mpr ⟨hi, hreached⟩, by rw [step_icount hstep, if_neg hi, if_pos hreached]⟩

/-- A handler below the threshold keeps the pc that its first step saved (R261, R263). -/
theorem ReachesCounted.savedReturnAddress_eq {n : Nat} {s u : State} (h : ReachesCounted (n + 1) s u)
    (hpending : s.pending = true) (h0 : s.icount = 0) (hn : n + 1 < s.config.irqThreshold) :
    u.savedReturnAddress = s.pc := by
  induction n generalizing u with
  | zero =>
    obtain _ | ⟨hreach, -, hstep⟩ := h
    cases hreach
    rw [step_savedReturnAddress hstep, if_pos hpending]
  | succ n ih =>
    obtain _ | ⟨hreach, -, hstep⟩ := h
    have hn' := Nat.lt_of_succ_lt hn
    have hnone := (hreach.below_threshold h0 hn').2 n.succ_pos
    rw [step_savedReturnAddress hstep, hnone, if_neg Bool.false_ne_true, ih hreach hn']

/-! ### Runs -/

theorem State.atHalt_iff (s : State) : s.atHalt = true ↔ s.fetch s.pc = 0x0000006F#32 := beq_iff_eq

theorem State.fetch_ne_of_not_atHalt {s : State} (h : s.atHalt = false) : s.fetch s.pc ≠ 0x0000006F#32 := by
  rwa [ne_eq, ← s.atHalt_iff, Bool.not_eq_true]

/-- At the halt word a run ends, whatever its budget (R288). -/
theorem run_of_atHalt {s : State} (h : s.atHalt = true) (budget : Nat) : run budget s = .next (s, .halted) := by
  cases budget <;> rw [run, if_pos h]

theorem run_zero {s : State} (h : s.atHalt = false) : run 0 s = .next (s, .outOfSteps) := by
  rw [run, h, if_neg Bool.false_ne_true]

theorem run_succ {s t : State} (h : s.atHalt = false) (hstep : step s = .next t) (budget : Nat) :
    run (budget + 1) s = run budget t := by
  rw [run, h, if_neg Bool.false_ne_true, hstep]

theorem not_atHalt_of_outOfSteps {budget : Nat} {s t : State} (h : run budget s = .next (t, .outOfSteps)) :
    s.atHalt = false := by
  refine Bool.eq_false_iff.mpr fun hhalt => ?_
  rw [run_of_atHalt hhalt] at h
  cases h

/-- Steps may be put before the others as well as after them. -/
theorem Reaches.head {n : Nat} {s t u : State} (hstep : step s = .next t) (h : Reaches n t u) :
    Reaches (n + 1) s u := by
  induction h with
  | refl => exact .tail (.refl s) hstep
  | tail _ hlast ih => exact .tail (ih hstep) hlast

/-- The step is a function: what `n + 1` steps reach, `n` steps reach from the next state. -/
theorem Reaches.of_succ {n : Nat} {s t u : State} (hstep : step s = .next t) (h : Reaches (n + 1) s u) :
    Reaches n t u := by
  induction n generalizing u with
  | zero =>
    obtain _ | ⟨hreach, hlast⟩ := h
    cases hreach
    rw [hstep] at hlast
    cases hlast
    exact .refl t
  | succ n ih =>
    obtain _ | ⟨hreach, hlast⟩ := h
    exact .tail (ih hreach) hlast

/-- `t` is at the halt word, and the first such state that steps from `s`, at most `budget` of them, come to. -/
def FirstHalt (budget : Nat) (s t : State) : Prop :=
  t.fetch t.pc = 0x0000006F#32 ∧ ∃ n, n ≤ budget ∧ Reaches n s t ∧
    ∀ m u, m < n → Reaches m s u → u.fetch u.pc ≠ 0x0000006F#32

theorem firstHalt_of_atHalt {s : State} (h : s.atHalt = true) (budget : Nat) : FirstHalt budget s s :=
  ⟨s.atHalt_iff.mp h, 0, budget.zero_le, .refl s, fun m _ hm => absurd hm m.not_lt_zero⟩

theorem FirstHalt.head {budget : Nat} {s t u : State} (hhalt : s.atHalt = false) (hstep : step s = .next u)
    (h : FirstHalt budget u t) : FirstHalt (budget + 1) s t := by
  obtain ⟨hword, n, hn, hreach, hfirst⟩ := h
  refine ⟨hword, n + 1, Nat.succ_le_succ hn, hreach.head hstep, fun m v hm hv => ?_⟩
  cases m with
  | zero => cases hv; exact State.fetch_ne_of_not_atHalt hhalt
  | succ m => exact hfirst m v (Nat.lt_of_succ_lt_succ hm) (hv.of_succ hstep)

/-- A run that halts stands at the first halt word that its steps come to. -/
theorem firstHalt_of_run_halted {budget : Nat} {s t : State} (h : run budget s = .next (t, .halted)) :
    FirstHalt budget s t := by
  induction budget generalizing s with
  | zero =>
    cases hhalt : s.atHalt
    · rw [run_zero hhalt] at h
      cases h
    · rw [run_of_atHalt hhalt] at h
      cases h
      exact firstHalt_of_atHalt hhalt 0
  | succ budget ih =>
    cases hhalt : s.atHalt
    · obtain ⟨u, hstep⟩ := Proofs.everyStepHasANextState s
      rw [run_succ hhalt hstep] at h
      exact (ih h).head hhalt hstep
    · rw [run_of_atHalt hhalt] at h
      cases h
      exact firstHalt_of_atHalt hhalt (budget + 1)

/-- A run that runs out of steps made all of them, and is not at the halt word. -/
theorem reaches_of_run_outOfSteps {budget : Nat} {s t : State} (h : run budget s = .next (t, .outOfSteps)) :
    t.fetch t.pc ≠ 0x0000006F#32 ∧ Reaches budget s t := by
  have hhalt := not_atHalt_of_outOfSteps h
  induction budget generalizing s with
  | zero =>
    rw [run_zero hhalt] at h
    cases h
    exact ⟨State.fetch_ne_of_not_atHalt hhalt, .refl _⟩
  | succ budget ih =>
    obtain ⟨u, hstep⟩ := Proofs.everyStepHasANextState s
    rw [run_succ hhalt hstep] at h
    obtain ⟨hword, hreach⟩ := ih h (not_atHalt_of_outOfSteps h)
    exact ⟨hword, hreach.head hstep⟩

/-! ### The placed word -/

theorem tableWord_toNat (w : Word) : tableWord 32 w.toNat = w := by
  rw [tableWord, Nat.mod_eq_of_lt w.isLt, BitVec.ofNat_toNat, BitVec.setWidth_eq]

theorem State.atStorage_mem (s : State) : s.atStorage.mem = s.mem := by
  unfold State.atStorage; split <;> rfl

/-- The reset entry point lies in RAM, so `atStorage` always fetches from storage (R50, R10). -/
theorem State.isStorage_atStorage {s : State} (hconfig : s.config.wf) :
    (s.atStorage.region s.atStorage.nextFetchAddr).isStorage = true := by
  by_cases hs : (s.region s.nextFetchAddr).isStorage = true
  · rwa [State.atStorage, if_pos hs]
  · rw [State.atStorage, if_neg hs]
    have haddr : State.nextFetchAddr { s with pc := 0#32, pending := false } = 0#32 := by
      rw [State.nextFetchAddr, State.interruptCheck_of_not_pending rfl]
      exact State.fetchAddr_of_aligned _ rfl
    rw [haddr, State.region, regionOf_isStorage]
    obtain ⟨-, hsize, -⟩ := hconfig
    exact ⟨Nat.lt_of_lt_of_le (by decide) hsize, by decide⟩

/-- A word stored where the next step fetches is what that step executes. -/
theorem State.currentInstr_storeWord {s : State} (hwf : s.mem.wf) (hs : (s.region s.nextFetchAddr).isStorage = true)
    (w : Word) : (s.storeWord s.nextFetchAddr w).currentInstr = decode w := by
  have hcheck : (s.storeWord s.nextFetchAddr w).interruptCheck = s.interruptCheck.storeWord s.nextFetchAddr w := by
    cases hp : s.pending <;> simp [State.interruptCheck, State.enterInterrupt, State.storeWord, hp]
  have hs' : (s.interruptCheck.region s.nextFetchAddr).isStorage = true := by
    rwa [State.region_congr s.interruptCheck_config]
  have hwf' : s.interruptCheck.mem.wf := by rwa [State.interruptCheck_mem]
  calc (s.storeWord s.nextFetchAddr w).currentInstr
      = decode ((s.interruptCheck.storeWord s.nextFetchAddr w).busRead s.nextFetchAddr) := by
        rw [State.currentInstr, hcheck]
        rfl
    _ = decode w := by rw [← State.busWrite_of_storage hs', State.busRead_busWrite hwf', if_pos hs']

end Sys2Proof.Machine

namespace Sys2Proof.Proofs

open Sys2Proof Sys2Proof.Machine Sys2Proof.Claims

/-- Settles O44, by induction over the counted steps below the threshold, then the step that reaches it. -/
theorem interruptComesAfterThresholdCountedSteps : Obligations.InterruptComesAfterThresholdCountedSteps := by
  intro n s t h0 hpos hle hreach
  refine ⟨fun hlt => ?below, fun heq => ?reached⟩
  case below =>
    obtain ⟨hicount, hpending⟩ := hreach.below_threshold h0 hlt
    exact ⟨hpending hpos, hicount⟩
  case reached =>
    obtain ⟨n, rfl⟩ := Nat.exists_eq_add_of_le' hpos
    obtain ⟨hpending, hicount⟩ := hreach.at_threshold h0 heq
    refine ⟨hpending, hicount, ?_, fun u hstep => by rw [step_savedReturnAddress hstep, if_pos hpending]⟩
    calc stepInstr t = decode (t.interruptCheck.fetch t.interruptCheck.pc) := rfl
      _ = decode (t.fetch s.config.handlerAddress) := by
        rw [State.interruptCheck_of_pending hpending, State.enterInterrupt_pc, State.fetch_enterInterrupt,
          hreach.config_eq]

/-- Settles O45: the first step saves the interrupted pc, no later one of the handler diverts, and IRET restores it. -/
theorem shortHandlerReturnsToTheInterruptedPc : Obligations.ShortHandlerReturnsToTheInterruptedPc := by
  intro n s u v hpending h0 hreach hn hiret hstep
  have hnone := (hreach.below_threshold h0 hn).2 n.succ_pos
  obtain rfl := Host.Outcome.next.inj ((step_of_iret hiret).symm.trans hstep)
  rw [State.returnFromInterrupt_pc, State.interruptCheck_of_not_pending hnone,
    hreach.savedReturnAddress_eq hpending h0 hn]

/-- Settles O47, end by end. -/
theorem runsStopOnlyAtTheHaltWordOrTheBudget : Obligations.RunsStopOnlyAtTheHaltWordOrTheBudget :=
  fun _ _ _ _ h => ⟨fun he => firstHalt_of_run_halted (he ▸ h), fun he => reaches_of_run_outOfSteps (he ▸ h)⟩

/-- Settles O48, by induction on the first run's budget: a run that ends out of steps is never at the halt word. -/
theorem stoppedRunsResumeUnchanged : Obligations.StoppedRunsResumeUnchanged := by
  intro m n s t h
  induction m generalizing s with
  | zero =>
    rw [run_zero (not_atHalt_of_outOfSteps h)] at h
    cases h
    rw [Nat.zero_add]
  | succ m ih =>
    have hhalt := not_atHalt_of_outOfSteps h
    obtain ⟨u, hstep⟩ := Proofs.everyStepHasANextState s
    rw [run_succ hhalt hstep] at h
    rw [Nat.succ_add, run_succ hhalt hstep, ih u h]

/-- Settles O49: the placed word lies in storage, so it is what the next step fetches. -/
theorem withFetchWordIsWhatTheNextStepExecutes : Obligations.WithFetchWordIsWhatTheNextStepExecutes := by
  intro s w hconfig hwf
  calc stepInstr (s.withFetchWord 32 w.toNat)
      = (s.atStorage.storeWord s.atStorage.nextFetchAddr (tableWord 32 w.toNat)).currentInstr := rfl
    _ = decode w := by
      have hwf' : s.atStorage.mem.wf := by rwa [State.atStorage_mem]
      rw [tableWord_toNat, State.currentInstr_storeWord hwf' (State.isStorage_atStorage hconfig)]

end Sys2Proof.Proofs
